-- ==== Sys2Proof/Word.lean ====
section
/-! DEFINITION. The value types of the block: the unsigned widths of rule R8 and the two sequence types of rule R10.
Every value of the spec is unsigned, so a bit vector of the stated width is the whole type. -/

namespace Sys2Proof

/-- `u4`: the value of one hexadecimal digit (R8, R22). -/
abbrev Nibble := BitVec 4

/-- `u8`: a data byte or a character code (R6 `BYTE_WIDTH`, `CHAR_WIDTH`). -/
abbrev Byte := BitVec 8

/-- `u10`: a command word (R6 `CW_WIDTH`, R60). -/
abbrev CmdWord := BitVec 10

/-- `u16`: the checksum register and the Checksum (R6 `CRC_WIDTH`, R21). -/
abbrev Half := BitVec 16

/-- The 24-bit read-only status vector (R29). -/
abbrev StatusWord := BitVec 24

/-- A Byte Sequence: a finite list of `u8`, with no maximum length (R6, R10). -/
abbrev ByteSeq := List Byte

/-- A Text: a finite list of 8-bit character codes (R10). -/
abbrev Text := List Byte

end Sys2Proof
end

