-- ==== Sys2Proof/Syntax.lean ====
section
/-! DEFINITION. The commands of the block, one constructor per row of `spec/opcode_table.json` (rule R61).
`ILLEGAL` (rule R62) is no command of the table: it is what the decoder answers for the 510 unassigned words, and it
stands in `Decode.lean` as the decoder's rejection. -/

namespace Sys2Proof

/-- One command (R61). Every value of an operand is legal (R64), so a term of this type is always well formed. -/
inductive Instr where
  /-- `INIT`: opens a request (R141). -/
  | init
  /-- `BYTE d`: absorbs one raw byte (R89, R90). -/
  | byte (d : Byte)
  /-- `CHAR c`: feeds one character to the decoder (R108, R109). -/
  | char (c : Byte)
  /-- `END`: closes a request (R143, R144). -/
  | endRequest
  deriving DecidableEq, Repr

end Sys2Proof
end

