-- ==== Sys2Proof/Decode.lean ====
section
/-! DEFINITION. The command word `CW10`: its fields, the decoder `decode_cw` (rules R60 to R63, R71), and after it the
encoder written from the same table (R61). The decoder is total on the 1024 words and rejects by name. -/

namespace Sys2Proof

/-- `op = CW[9:8]` (R60). -/
def opField (w : CmdWord) : BitVec 2 := w.extractLsb' 8 2

/-- `data = CW[7:0]` (R60): the operand of `BYTE` and `CHAR`, used as it stands (R65, R66). -/
def dataField (w : CmdWord) : Byte := w.extractLsb' 0 8

/-- Why a word is `ILLEGAL` (R63): which of the two reserved fields is not zero. -/
inductive IllegalWord where
  /-- `op = 00` with a non-zero data field: `INIT` with its reserved field used. -/
  | reservedInInit
  /-- `op = 11` with a non-zero data field: `END` with its reserved field used. -/
  | reservedInEnd
  deriving DecidableEq, Repr

/-- The decoder's answer (R62): one of the four commands, or `ILLEGAL`. -/
inductive Decoded where
  | legal (i : Instr)
  | illegal (why : IllegalWord)
  deriving DecidableEq, Repr

/-- `decode_cw` (R62), total on the 1024 words; the phase plays no part in it (R71). -/
def decodeCw (w : CmdWord) : Decoded :=
  if opField w = 0b00#2 then
    if dataField w = 0x00#8 then .legal .init else .illegal .reservedInInit
  else if opField w = 0b01#2 then .legal (.byte (dataField w))
  else if opField w = 0b10#2 then .legal (.char (dataField w))
  else if dataField w = 0x00#8 then .legal .endRequest else .illegal .reservedInEnd

/-- The word of a command (R61, R69): the pattern `CW[9:0]` of its row. -/
def encode : Instr → CmdWord
  | .init => 0x000#10
  | .byte d => (0b01#2 ++ d : BitVec (2 + 8))
  | .char c => (0b10#2 ++ c : BitVec (2 + 8))
  | .endRequest => 0x300#10

/-- One row of the opcode table (R61): a word `w` selects it when `w & mask = pattern`. -/
structure OpcodeRow where
  pattern : CmdWord
  mask : CmdWord
  deriving DecidableEq, Repr

/-- The row of a command in the table of R61 (`match`, `mask`). -/
def opcodeRow : Instr → OpcodeRow
  | .init => { pattern := 0x000#10, mask := 0x3FF#10 }
  | .byte _ => { pattern := 0x100#10, mask := 0x300#10 }
  | .char _ => { pattern := 0x200#10, mask := 0x300#10 }
  | .endRequest => { pattern := 0x300#10, mask := 0x3FF#10 }

/-- R61: the word selects the row. -/
def rowSelected (r : OpcodeRow) (w : CmdWord) : Bool := w &&& r.mask = r.pattern

/-- The word on the ten wires of `cmd` (R45) when the host gives the low `nbits` bits of a number, the bits above `nbits`
zero: bits above bit 9 have no wire. DESIGN CHOICE (log entry 6): a number wider than the port is cut to the port. -/
def portWord (nbits w : Nat) : CmdWord := BitVec.ofNat 10 (w % 2 ^ nbits)

/-- The command the decoder reads from a word numbered as `spec/opcode_table.json` numbers its bits; `none` where the
decoder answers `ILLEGAL`. -/
def decodeTableWord (nbits w : Nat) : Option Instr :=
  match decodeCw (portWord nbits w) with
  | .legal i => some i
  | .illegal _ => none

end Sys2Proof
end

