-- ==== Sys2Proof/Config.lean ====
section
/-! DEFINITION. What an implementation fixes: the parameter `WS_SET` of rule R6 and its default (decision D11).
The timing parameters `T_INIT`, `T_BYTE`, `T_CHAR`, `T_END` are absent, as `93_implementation_defined.md` I7 advises: no
rule depends on them. The block has no undefined value, so there is no free value here. -/

namespace Sys2Proof

/-- The configuration of one block (R6, R33): `wsSet` is `WS_SET`, the character codes removed as whitespace.
It is fixed for the life of the block: no command and no reset changes it. -/
structure Config where
  wsSet : List Byte
  deriving DecidableEq, Repr

/-- The default `WS_SET` of rule R6 and decision D11: tab, line feed, vertical tab, form feed, carriage return, space. -/
def Config.standard : Config :=
  { wsSet := [0x09#8, 0x0A#8, 0x0B#8, 0x0C#8, 0x0D#8, 0x20#8] }

end Sys2Proof
end

