-- ==== Sys2Proof/Machine/Operands.lean ====
section
/-! DEFINITION. Operand assembly: how a Checksum is taken apart (R67), how a byte becomes two characters (R121, R122)
and two digits become a byte (R66), and the class of a character (R104). -/

namespace Sys2Proof.Machine

/-- The Checksum's low byte, `CRC[7:0]` (R67). -/
def lowByte (v : Half) : Byte := v.extractLsb' 0 8

/-- The Checksum's high byte, `CRC[15:8]` (R67). -/
def highByte (v : Half) : Byte := v.extractLsb' 8 8

/-- `b[7:4]` (R67, R122). -/
def highNibble (b : Byte) : Nibble := b.extractLsb' 4 4

/-- `b[3:0]` (R67, R122). -/
def lowNibble (b : Byte) : Nibble := b.extractLsb' 0 4

/-- `h : l = 16*h + l` (R9, R66): the group's first character gives the high digit. -/
def joinNibbles (h l : Nibble) : Byte := (h ++ l : BitVec (4 + 4))

/-- `hexdigit` (R121): the upper-case character of a digit value. -/
def hexdigit (n : Nibble) : Byte :=
  if n ≤ 9#4 then 0x30#8 + n.setWidth 8 else 0x41#8 + (n.setWidth 8 - 10#8)

/-- The separator, `0x20` (R68, R123). -/
def space : Byte := 0x20#8

/-- `token` (R122): two characters, the high digit first. -/
def token (b : Byte) : Text := [hexdigit (highNibble b), hexdigit (lowNibble b)]

/-- The class of a character (R104). -/
inductive CharClass where
  /-- `WS`: whitespace. -/
  | ws
  /-- `HEX(v)`: a hexadecimal digit of value `v`. -/
  | hex (v : Nibble)
  /-- `OTHER`. -/
  | other
  deriving DecidableEq, Repr

/-- `class(c)` (R104), the tests in the rule's order; `WS_SET` is the configuration's (R101). -/
def classify (cfg : Config) (c : Byte) : CharClass :=
  if c ∈ cfg.wsSet then .ws
  else if 0x30#8 ≤ c ∧ c ≤ 0x39#8 then .hex ((c - 0x30#8).setWidth 4)
  else if 0x41#8 ≤ c ∧ c ≤ 0x46#8 then .hex ((c - 0x41#8 + 10#8).setWidth 4)
  else if 0x61#8 ≤ c ∧ c ≤ 0x66#8 then .hex ((c - 0x61#8 + 10#8).setWidth 4)
  else .other

end Sys2Proof.Machine
end

