-- ==== Sys2Proof/Machine/Codec.lean ====
section
/-! DEFINITION. The Hex Codec's functions on whole sequences: `decode` (R100 to R107), `encode` (R120 to R123) and
`encodeFrame` (R124, R125). They are the source's contracts; the commands carry them out a character or a byte at a
time (R110, R129). -/

namespace Sys2Proof.Machine

/-- Cleaning (R101): every whitespace character is removed, wherever it stands. -/
def clean (cfg : Config) (t : Text) : Text := t.filter (fun c => classify cfg c ≠ .ws)

/-- The two-character groups of a cleaned text (R103), each parsed strictly (R105); `none` is `ParseError`. A last
character without a partner is no group. -/
def parseGroups (cfg : Config) : Text → Option ByteSeq
  | [] => some []
  | [_] => none
  | a :: b :: rest =>
    match classify cfg a, classify cfg b with
    | .hex h, .hex l => (parseGroups cfg rest).map (joinNibbles h l :: ·)
    | _, _ => none

/-- `decode` (R107): a Byte Sequence, or `ParseError` as `none`; it has no other outcome (R100). -/
def decodeText (cfg : Config) (t : Text) : Option ByteSeq :=
  let cleaned := clean cfg t
  if cleaned.length % 2 = 1 then none else parseGroups cfg cleaned

/-- `encode` (R120, R123): one upper-case token per byte, joined by one space. -/
def encodeText : ByteSeq → Text
  | [] => []
  | [b] => token b
  | b :: rest => token b ++ space :: encodeText rest

/-- `tail(crc)` (R124): a space, the low byte's token, a space, the high byte's token. -/
def tail (crc : Half) : Text := space :: token (lowByte crc) ++ space :: token (highByte crc)

/-- `encodeFrame` (R124): any checksum is accepted; for the empty sequence the text begins with a space (R125). -/
def encodeFrame (bytes : ByteSeq) (crc : Half) : Text := encodeText bytes ++ tail crc

end Sys2Proof.Machine
end

