-- ==== Sys2Proof/Machine/Engine.lean ====
section
/-! DEFINITION. The CRC Engine: rules R81 to R86 as the definition, and the three other forms the spec gives of the same
functions (wires R88, lookup table R91, bit-serial R92). -/

namespace Sys2Proof.Machine

/-- `POLY_REFLECTED` (R6). -/
def polyReflected : Half := 0xA001#16

/-- `CRC_INIT` (R6, R81). -/
def crcInit : Half := 0xFFFF#16

/-- Step 2 (R82): the byte is exclusive-ored into bits 7:0; `zext_16` is `setWidth 16` of a byte (R65). -/
def crcXor (r : Half) (b : Byte) : Half := r ^^^ b.setWidth 16

/-- One iteration of step 3 (R83): bit 0 is tested before the logical shift, the constant is applied after it. -/
def shift1 (r : Half) : Half :=
  if r.getLsbD 0 then (r >>> 1) ^^^ polyReflected else r >>> 1

/-- Exactly eight iterations (R84). -/
def shift8 (r : Half) : Half :=
  shift1 (shift1 (shift1 (shift1 (shift1 (shift1 (shift1 (shift1 r)))))))

/-- Steps 2 and 3 for one byte (R84). -/
def crcByte (r : Half) (b : Byte) : Half := shift8 (crcXor r b)

/-- The whole computation (R85): the fold over the bytes in sequence order; step 4 does nothing more (R86). -/
def compute (bytes : ByteSeq) : Half := bytes.foldl crcByte crcInit

/-- Rule R83 as wires (R88): `f` is the feedback bit, the constant has ones at bits 15, 13 and 0. Listed from bit 15
down to bit 0. -/
def shift1Wires (r : Half) : Half :=
  let f := r.getLsbD 0
  BitVec.ofBoolListBE
    [f, r.getLsbD 15, r.getLsbD 14 ^^ f, r.getLsbD 13, r.getLsbD 12, r.getLsbD 11, r.getLsbD 10, r.getLsbD 9,
     r.getLsbD 8, r.getLsbD 7, r.getLsbD 6, r.getLsbD 5, r.getLsbD 4, r.getLsbD 3, r.getLsbD 2, r.getLsbD 1 ^^ f]

/-- An entry of the lookup table of R91: `shift1` eight times on the zero-extended index. -/
def tableEntry (i : Byte) : Half := shift8 (i.setWidth 16)

/-- The table form (R91). -/
def crcByteTable (r : Half) (b : Byte) : Half :=
  (r >>> 8) ^^^ tableEntry ((r ^^^ b.setWidth 16).extractLsb' 0 8)

/-- One step of the bit-serial form (R92) for one data bit. -/
def serialStep (s : Half) (bit : Bool) : Half :=
  (s >>> 1) ^^^ (if s.getLsbD 0 ^^ bit then polyReflected else 0x0000#16)

/-- The bit-serial form (R92): the byte's bits are fed in order 0 to 7. -/
def crcByteSerial (r : Half) (b : Byte) : Half :=
  [0, 1, 2, 3, 4, 5, 6, 7].foldl (fun s i => serialStep s (b.getLsbD i)) r

end Sys2Proof.Machine
end

