-- ==== Sys2Proof/Machine/State.lean ====
section
/-! DEFINITION. The state of the block as plain data, its reset value, and the closed lists of stops.
The six architectural registers of rule R20; the histories of the two output streams (R33, R41, R42); the words the host
has still to present (R43, I11) and the configuration (R6), which the spec calls parameters or observations of a model
(R33) and which stand in the state because the form of `step` takes nothing else (log entries 1, 2, 3). -/

namespace Sys2Proof.Machine

/-- The four values of `PH` (R24). -/
inductive Phase where
  | idle
  | run
  | done
  | fail
  deriving DecidableEq, Repr

/-- The three errors of rule R160; `EC` names one of them or holds 0. -/
inductive Err where
  | parseError
  | emptyInputError
  | commandError
  deriving DecidableEq, Repr

/-- What the host may do to the block between two commands, at the command level (R45, R181, R187, R188). Waiting,
reading `STATUS` and taking an item have no effect on the block (R52, R188) and are no events. -/
inductive HostEvent where
  /-- The host presents a command word, the block takes it and executes it to completion (R43, R51). -/
  | command (w : CmdWord)
  /-- The host asserts `rst` between commands (R180, R181). -/
  | reset
  /-- The host presents `w` and asserts `rst` while the block executes it (R180, R181, I9). `boTaken` and `txtTaken` say
  how many of the command's items on each stream the host had taken by then: any numbers, the spec determines none. -/
  | resetDuring (w : CmdWord) (boTaken txtTaken : Nat)
  deriving DecidableEq, Repr

/-- The state. `ph`, `ec`, `crc`, `hn`, `hnv`, `ne` are the whole architectural state (R20); the rest is the model's. -/
@[ext]
structure State where
  /-- `PH`, the phase of the request (R24). -/
  ph : Phase
  /-- `EC`, the error that ended the request; `none` is code 0 (R28). -/
  ec : Option Err
  /-- `CRC`, the checksum register (R21). -/
  crc : Half
  /-- `HN`, the held high nibble (R22). -/
  hn : Nibble
  /-- `HNV`, the held nibble is valid (R25). -/
  hnv : Bool
  /-- `NE`, at least one byte absorbed in this request (R26). -/
  ne : Bool
  /-- Every item the host has taken from `BO`, oldest first (R33, R41). -/
  bo : List Byte
  /-- Every item the host has taken from `TXT`, oldest first (R33, R42). -/
  txt : List Byte
  /-- What the host does next, in order: `CMD` and `rst` (R43, R181). -/
  input : List HostEvent
  /-- The configuration (R6); nothing writes it. -/
  cfg : Config
  deriving DecidableEq, Repr

/-- No command of the block stops the machine: its three errors are phases it enters and leaves (R164, R167), and no
behaviour is left open (R64, R147). So there is no fault, raised by nobody; the type is closed and empty. -/
inductive Fault where
  deriving DecidableEq, Repr

/-- The refusals. -/
inductive Refusal where
  /-- Raised only by an arm of `exec` whose instruction has no meaning yet; safe, since it stops where the block goes on.
  No arm uses it: every instruction has its meaning. -/
  | notModelled (mnemonic : String)
  deriving DecidableEq, Repr

/-- The machine right after reset (R32): every register at the value the spec gives, both histories empty, no command
presented yet, and the default configuration of R6. -/
def State.reset : State where
  ph := .idle
  ec := none
  crc := 0xFFFF#16
  hn := 0x0#4
  hnv := false
  ne := false
  bo := []
  txt := []
  input := []
  cfg := Config.standard

end Sys2Proof.Machine
end

