-- ==== Sys2Proof/Machine/Flags.lean ====
section
/-! DEFINITION. The two flags `HNV` and `NE` (R25, R26, the only ones, R27), the codes of `PH` and `EC` (R24, R160) and
the two status lines (R169). -/

namespace Sys2Proof.Machine

/-- The first digit of a group is held (R22, R25, R108): `HN <- v`, `HNV <- 1`. -/
def holdDigit (v : Nibble) (s : State) : State := { s with hn := v, hnv := true }

/-- The second digit of a group has arrived (R25, R108): `HNV <- 0`; `HN` is left unchanged (R22). -/
def clearHnv (s : State) : State := { s with hnv := false }

/-- A byte has been absorbed (R26, R126): `NE <- 1`. -/
def setNe (s : State) : State := { s with ne := true }

/-- The code of a phase (R24). -/
def phaseCode : Phase → BitVec 2
  | .idle => 0#2
  | .run => 1#2
  | .done => 2#2
  | .fail => 3#2

/-- `code(E)` (R160, R164). -/
def errCode : Err → BitVec 2
  | .parseError => 1#2
  | .emptyInputError => 2#2
  | .commandError => 3#2

/-- The value of `EC` (R28): 0 when no error has ended the request. -/
def ecCode : Option Err → BitVec 2
  | none => 0#2
  | some e => errCode e

/-- The status line `DONE` (R29, R169): 1 when `PH = DONE`. -/
def doneLine (s : State) : Bool := s.ph = .done

/-- The status line `ERR` (R29, R169): 1 when `PH = FAIL`. -/
def errLine (s : State) : Bool := s.ph = .fail

end Sys2Proof.Machine
end

