-- ==== Sys2Proof/Machine/Ops.lean ====
section
/-! DEFINITION. The named operations over the registers and the two output streams: emission (R11), error entry and the
return from it (R164, R166), `absorb` and `emit_tail` (R126, R127), the gate every command but `INIT` passes (R146),
reset (R180), and the status vector (R29). The block has no memory (R40), so there is no memory operation. -/

namespace Sys2Proof.Machine

/-- The tuple `S = (PH, EC, CRC, HN, HNV, NE)` of rule R20. -/
def registers (s : State) : Phase × Option Err × Half × Nibble × Bool × Bool :=
  (s.ph, s.ec, s.crc, s.hn, s.hnv, s.ne)

/-- `emit_bo` (R11, R41): append one item to `BO`. -/
def emitBo (b : Byte) (s : State) : State := { s with bo := s.bo ++ [b] }

/-- `emit_txt` (R11, R42), for the characters of a text in order. -/
def emitTxt (cs : Text) (s : State) : State := { s with txt := s.txt ++ cs }

/-- `discard` (R11): the command ends with no register written and nothing emitted. -/
def discard (s : State) : State := s

/-- Taking an error, the whole of error entry (R164): `PH <- FAIL`, `EC <- code(E)`, and nothing else. -/
def raise (e : Err) (s : State) : State := { s with ph := .fail, ec := some e }

/-- The return from an error, which is also the ordinary opening of a request (R141, R166): all six registers are written
afresh and nothing is restored, since nothing was saved. -/
def openRequest (s : State) : State :=
  { s with ph := .run, ec := none, crc := crcInit, hn := 0x0#4, hnv := false, ne := false }

/-- `PH <- DONE` (R143). -/
def closeRequest (s : State) : State := { s with ph := .done }

/-- `CRC <- v` (R126). -/
def setCrc (v : Half) (s : State) : State := { s with crc := v }

/-- The token of a data byte as `absorb` emits it (R126): a space goes before every token but the request's first, and
`NE` is read before it is written. -/
def byteText (b : Byte) (s : State) : Text := (bif s.ne then [space] else []) ++ token b

/-- `absorb(b)` (R126). -/
def absorb (b : Byte) (s : State) : State :=
  setNe (setCrc (crcByte s.crc b) (emitTxt (byteText b s) (emitBo b s)))

/-- `emit_tail` (R127): the Checksum's low byte, then its high byte, on both streams (R46). -/
def emitTail (s : State) : State :=
  emitTxt (tail s.crc) (emitBo (highByte s.crc) (emitBo (lowByte s.crc) s))

/-- Checks 3, 5 and 6 of rule R146, for a command that is not `INIT`: discarded in `FAIL` (R165), `CommandError` in `IDLE`
and `DONE` (R163), executed in `RUN`. -/
def whenRun (body : State → State) (s : State) : State :=
  match s.ph with
  | .fail => discard s
  | .idle => raise .commandError s
  | .done => raise .commandError s
  | .run => body s

/-- Reset (R32, R180): every architectural register takes its reset value; nothing is emitted, and what the host has
already taken stays with the host (R181). -/
def resetRegisters (s : State) : State :=
  { s with ph := .idle, ec := none, crc := 0xFFFF#16, hn := 0x0#4, hnv := false, ne := false }

/-- Reset inside a command (R181, I9): the registers take their reset values, and of the items the command emits (those
`done` holds beyond `before`) the host has taken the first `boTaken` on `BO` and the first `txtTaken` on `TXT`; the rest
is dropped. -/
def cutShort (boTaken txtTaken : Nat) (before done : State) : State :=
  resetRegisters
    { before with
      bo := before.bo ++ (done.bo.drop before.bo.length).take boTaken
      txt := before.txt ++ (done.txt.drop before.txt.length).take txtTaken }

/-- `cutShort` over the outcome of the command. -/
def cutOutcome (boTaken txtTaken : Nat) (before : State) :
    Host.Outcome State Fault Refusal → Host.Outcome State Fault Refusal
  | .next done => .next (cutShort boTaken txtTaken before done)
  | .fault r => .fault r
  | .refused r => .refused r

/-- The block takes the host's next event (R43): the events after it are what is left. -/
def withInput (rest : List HostEvent) (s : State) : State := { s with input := rest }

/-- A field of the status vector whose lowest bit stands at bit `pos` (R29). -/
def statusField {w : Nat} (pos : Nat) (v : BitVec w) : StatusWord := v.setWidth 24 <<< pos

/-- The status vector (R29), valid between commands. It is a function of the registers: reading it has no side effect
(R44, R52). -/
def status (s : State) : StatusWord :=
  statusField 0 s.crc |||
  statusField 16 (phaseCode s.ph) |||
  statusField 18 (ecCode s.ec) |||
  statusField 20 (BitVec.ofBool s.hnv) |||
  statusField 21 (BitVec.ofBool s.ne) |||
  statusField 22 (BitVec.ofBool (doneLine s)) |||
  statusField 23 (BitVec.ofBool (errLine s))

end Sys2Proof.Machine
end

