-- ==== Sys2Proof/Machine/Data.lean ====
section
/-! DEFINITION. The data commands: `BYTE` (R89, R90) and `CHAR` (R108, R109). -/

namespace Sys2Proof.Machine

/-- `BYTE d` in `RUN` (R89): a raw byte between the two characters of a group is a `CommandError`. -/
def byteBody (d : Byte) (s : State) : State :=
  if s.hnv then raise .commandError s else absorb d s

/-- `BYTE d` (R89, R90). -/
def execByte (d : Byte) (s : State) : Host.Outcome State Fault Refusal := .next (whenRun (byteBody d) s)

/-- `CHAR c` with a hexadecimal digit of value `v` in `RUN` (R108): the first digit of a group is held, the second
completes it. -/
def digitBody (v : Nibble) (s : State) : State :=
  if s.hnv then absorb (joinNibbles s.hn v) (clearHnv s) else holdDigit v s

/-- `CHAR c` in `RUN` (R108). -/
def charBody (c : Byte) (s : State) : State :=
  match classify s.cfg c with
  | .ws => discard s
  | .other => raise .parseError s
  | .hex v => digitBody v s

/-- `CHAR c` (R108, R109). -/
def execChar (c : Byte) (s : State) : Host.Outcome State Fault Refusal := .next (whenRun (charBody c) s)

end Sys2Proof.Machine
end

