-- ==== Sys2Proof/Machine/Request.lean ====
section
/-! DEFINITION. The request control: `INIT` (R141), `END` (R143, R144), and the pseudo-command `ILLEGAL` (R145), which is
no row of the opcode table and is called by the step where the decoder rejects a word. -/

namespace Sys2Proof.Machine

/-- `INIT` (R141), the same in every phase: never discarded, never an error, emits nothing. -/
def execInit (s : State) : Host.Outcome State Fault Refusal := .next (openRequest s)

/-- `END` in `RUN` (R143): the open pair is checked first, then emptiness (R142), then the Checksum is appended. -/
def endBody (s : State) : State :=
  if s.hnv then raise .parseError s
  else if s.ne then closeRequest (emitTail s)
  else raise .emptyInputError s

/-- `END` (R143, R144). -/
def execEnd (s : State) : Host.Outcome State Fault Refusal := .next (whenRun endBody s)

/-- `ILLEGAL` (R63, R145): discarded in `FAIL`, `CommandError` in the other three phases. -/
def execIllegal (s : State) : Host.Outcome State Fault Refusal := .next (whenRun (raise .commandError) s)

end Sys2Proof.Machine
end

