-- ==== Sys2Proof/Machine/Dispatch.lean ====
section
/-! DEFINITION. The meaning of each command, one arm per constructor of `Instr`. -/

namespace Sys2Proof.Machine

def exec (i : Instr) (s : State) : Host.Outcome State Fault Refusal :=
  match i with
  | .init => Sys2Proof.Machine.execInit s
  | .byte d => Sys2Proof.Machine.execByte d s
  | .char c => Sys2Proof.Machine.execChar c s
  | .endRequest => Sys2Proof.Machine.execEnd s

end Sys2Proof.Machine
end

