-- ==== Sys2Proof/Machine/Events.lean ====
section
/-! DEFINITION. The host's events carried out (R7, R43, R51, R181): a command word is decoded first, and the phase plays
no part in that (R146 check 1); what the decoder rejects is executed as `ILLEGAL`. -/

namespace Sys2Proof.Machine

/-- A command word executed in a state (R146, R147): the command it decodes to, or `ILLEGAL`. -/
def execWord (w : CmdWord) (s : State) : Host.Outcome State Fault Refusal :=
  match decodeCw w with
  | .legal i => exec i s
  | .illegal _ => execIllegal s

/-- An event of the host, in the state from which the event has been taken. -/
def execEvent (e : HostEvent) (s : State) : Host.Outcome State Fault Refusal :=
  match e with
  | .command w => execWord w s
  | .reset => .next (resetRegisters s)
  | .resetDuring w boTaken txtTaken => cutOutcome boTaken txtTaken s (execWord w s)

/-- The block takes the host's next event and carries it out to completion. With no event left it holds its state and
waits (R176, R180). -/
def execNext (s : State) : Host.Outcome State Fault Refusal :=
  match s.input with
  | [] => .next s
  | e :: rest => execEvent e (withInput rest s)

/-- The host presents one more word, before everything else it was going to do (R43; log entry 5). -/
def presentFirst (w : CmdWord) (s : State) : State := withInput (.command w :: s.input) s

end Sys2Proof.Machine
end

