-- ==== Sys2Proof/Machine/Step.lean ====
section
/-! DEFINITION. One step of the machine: one event of the host (R7, R51). -/

namespace Sys2Proof.Machine

/-- One step (R147): the host's next event, carried out to completion. -/
def step (s : State) : Host.Outcome State Fault Refusal := execNext s

/-- The instruction whose bits are `w`, presented so that the very next step takes and executes exactly it. -/
def State.withFetchWord (s : State) (nbits w : Nat) : State := presentFirst (portWord nbits w) s

end Sys2Proof.Machine
end

