-- ==== Sys2Proof/Machine/CommandList.lean ====
section
/-! DEFINITION. The command-list notation of rules R69 and R70: one command a line, `.word` for any word, and the four
pseudo-commands with their expansions. It is notation for what the host presents and has no encoding of its own (D20). -/

namespace Sys2Proof.Machine

/-- One item of a command list (R69): a command, or `.word` with any 10-bit word. -/
inductive ListItem where
  | command (i : Instr)
  | word (w : CmdWord)
  deriving DecidableEq, Repr

/-- The word an item stands for (R69). -/
def itemWord : ListItem → CmdWord
  | .command i => encode i
  | .word w => w

/-- `BYTES b0 ... bn-1` (R70). -/
def bytesCommands (bytes : ByteSeq) : List Instr := bytes.map .byte

/-- `TEXT "t"` (R70). -/
def textCommands (t : Text) : List Instr := t.map .char

/-- `LINE "t"` (R70): what the host does with one forwarded line. -/
def lineCommands (t : Text) : List Instr := .init :: textCommands t ++ [.endRequest]

/-- `FRAME b0 ... bn-1` (R70): the same for a host that already holds bytes. -/
def frameCommands (bytes : ByteSeq) : List Instr := .init :: bytesCommands bytes ++ [.endRequest]

/-- The host presents these commands in this order (R43, R60). -/
def present (cmds : List Instr) : List HostEvent := cmds.map (fun i => .command (encode i))

/-- The number a list of hexadecimal digits names; `none` if a character is no digit or there is none. -/
def hexNumber : Text → Option Nat
  | [] => none
  | t => t.foldl (fun acc c =>
      match acc with
      | none => none
      | some n =>
        if 0x30#8 ≤ c ∧ c ≤ 0x39#8 then some (16 * n + (c - 0x30#8).toNat)
        else if 0x41#8 ≤ c ∧ c ≤ 0x46#8 then some (16 * n + (c - 0x41#8).toNat + 10)
        else if 0x61#8 ≤ c ∧ c ≤ 0x66#8 then some (16 * n + (c - 0x61#8).toNat + 10)
        else none) (some 0)

/-- The number a list of decimal digits names. -/
def decimalNumber : Text → Option Nat
  | [] => none
  | t => t.foldl (fun acc c =>
      match acc with
      | none => none
      | some n => if 0x30#8 ≤ c ∧ c ≤ 0x39#8 then some (10 * n + (c - 0x30#8).toNat) else none) (some 0)

/-- A number of the notation (R69): hexadecimal after `0x`, else decimal; it must lie below `bound`. -/
def listNumber (bound : Nat) : Text → Option Nat
  | 0x30#8 :: 0x78#8 :: digits => (hexNumber digits).filter (· < bound)
  | digits => (decimalNumber digits).filter (· < bound)

/-- A space or a tab, which separate the words of a line. -/
def isBlank (c : Byte) : Bool := c = 0x20#8 || c = 0x09#8

/-- Nothing but blanks, or blanks and a comment, which a semicolon starts (R69). -/
def onlyComment : Text → Bool
  | [] => true
  | c :: rest => if isBlank c then onlyComment rest else c = 0x3B#8

/-- The first word of a text, up to a blank or a semicolon, and what follows it. -/
def firstWord (t : Text) : Text × Text :=
  t.span (fun c => !(isBlank c || c = 0x3B#8))

/-- The operand of `BYTE` or `.word`: one number below `bound`, then nothing but a comment. -/
def numberOperand (bound : Nat) (t : Text) : Option Nat :=
  match firstWord (t.dropWhile isBlank) with
  | (digits, rest) => if onlyComment rest then listNumber bound digits else none

/-- The operand of `CHAR` (R69): a printable ASCII character between single quotes, or a number. -/
def charOperand (t : Text) : Option Byte :=
  match t.dropWhile isBlank with
  | 0x27#8 :: c :: 0x27#8 :: rest =>
    if 0x20#8 ≤ c ∧ c ≤ 0x7E#8 ∧ onlyComment rest then some c else none
  | u => (numberOperand 256 u).map (BitVec.ofNat 8)

/-- One line of a command list (R69): no item for an empty or a comment line, `none` for a line that is not in the
notation. The mnemonics `INIT`, `BYTE`, `CHAR`, `END` are upper case; `.word` is written as it stands. -/
def parseLine (t : Text) : Option (List ListItem) :=
  if onlyComment t then some []
  else
    match firstWord (t.dropWhile isBlank) with
    | ([0x49#8, 0x4E#8, 0x49#8, 0x54#8], rest) => if onlyComment rest then some [.command .init] else none
    | ([0x45#8, 0x4E#8, 0x44#8], rest) => if onlyComment rest then some [.command .endRequest] else none
    | ([0x42#8, 0x59#8, 0x54#8, 0x45#8], rest) =>
      (numberOperand 256 rest).map (fun n => [.command (.byte (BitVec.ofNat 8 n))])
    | ([0x43#8, 0x48#8, 0x41#8, 0x52#8], rest) => (charOperand rest).map (fun c => [.command (.char c)])
    | ([0x2E#8, 0x77#8, 0x6F#8, 0x72#8, 0x64#8], rest) =>
      (numberOperand 1024 rest).map (fun n => [.word (BitVec.ofNat 10 n)])
    | _ => none

end Sys2Proof.Machine
end

