-- ==== Sys2Proof/Machine/Shell.lean ====
section
/-! DEFINITION. The host's duties as the spec transcribes them (R172, R185, R187): what the shell does with a line it has
read, and what it does with the outputs of the request. None of this is block behaviour and the step does not use it. -/

namespace Sys2Proof.Machine

/-- What the shell does with one line (R187). -/
inductive ShellAction where
  /-- An empty line: re-prompt without invoking the core. -/
  | ignore
  /-- The literal tokens `exit` and `quit`: end the session. -/
  | terminate
  /-- Any other line: these commands are issued. -/
  | forward (cmds : List Instr)
  deriving DecidableEq, Repr

/-- The literal token `exit`, case-sensitive (R187). -/
def exitToken : Text := [0x65#8, 0x78#8, 0x69#8, 0x74#8]

/-- The literal token `quit`, case-sensitive (R187). -/
def quitToken : Text := [0x71#8, 0x75#8, 0x69#8, 0x74#8]

/-- The shell's treatment of a line (R187): "empty" is zero characters, a whitespace-only line is forwarded. -/
def shellAction (t : Text) : ShellAction :=
  if t = [] then .ignore
  else if t = exitToken ∨ t = quitToken then .terminate
  else .forward (lineCommands t)

/-- What the host does with the items of a request that has ended (R172, R185, R187). -/
inductive Verdict where
  /-- `DONE`: the items are the result. -/
  | keep
  /-- `ERR`: discard the items and report a failure. -/
  | discardAndReport
  /-- Neither line is up: the request has not ended (R190). -/
  | pending
  deriving DecidableEq, Repr

/-- The host's verdict from the status vector alone: bit 22 is `DONE`, bit 23 is `ERR` (R29, R172). -/
def hostVerdict (st : StatusWord) : Verdict :=
  if st.getLsbD 22 then .keep else if st.getLsbD 23 then .discardAndReport else .pending

/-- The observation of a request that has ended (R190): the final `STATUS`, and the items the request emitted on `BO` and on
`TXT`, read against the state before its `INIT`. The items count as a result only under `DONE` (R185). -/
structure Observation where
  finalStatus : StatusWord
  boItems : List Byte
  txtItems : List Byte
  deriving DecidableEq, Repr

/-- R190, for a request that began in the state `before` and has ended in the state `after`. -/
def observation (before after : State) : Observation where
  finalStatus := status after
  boItems := after.bo.drop before.bo.length
  txtItems := after.txt.drop before.txt.length

end Sys2Proof.Machine
end

