-- ==== Sys2Proof/WellFormed.lean ====
section
/-! DEFINITION. The checks the spec makes or asks of data: the reserved field of a command word (R63), the two
constraints on `WS_SET` (R6, R101), and the shape of a well-formed request (R140).
There is no check on `Instr` itself: every operand value is legal (R64), and the types carry the widths. -/

namespace Sys2Proof

/-- R63, R71: the reserved field (`data`, bits 7:0) of a word whose `op` is `00` (`INIT`) or `11` (`END`) is zero; the
words of the other two opcodes have no reserved field. -/
def reservedClear (w : CmdWord) : Bool :=
  let op := w.extractLsb' 8 2
  let data := w.extractLsb' 0 8
  if op = 0b00#2 ∨ op = 0b11#2 then data = 0x00#8 else true

/-- R68, R104: the character is one of the 22 hexadecimal digits `0`-`9`, `A`-`F`, `a`-`f`. -/
def isHexDigitCode (c : Byte) : Bool :=
  (0x30#8 ≤ c && c ≤ 0x39#8) || (0x41#8 ≤ c && c ≤ 0x46#8) || (0x61#8 ≤ c && c ≤ 0x66#8)

/-- R6, R101: an admissible `WS_SET` contains the space and contains no hexadecimal digit. -/
def Config.wellFormed (cfg : Config) : Bool :=
  cfg.wsSet.contains 0x20#8 && cfg.wsSet.all (fun c => !isHexDigitCode c)

/-- The commands that may stand between the `INIT` and the `END` of a well-formed request (R140). -/
def Instr.isData : Instr → Bool
  | .init => false
  | .byte _ => true
  | .char _ => true
  | .endRequest => false

/-- R140: after the `INIT`, any number of `BYTE` and `CHAR` commands, then `END`, and nothing after it. -/
def requestTailWellFormed : List Instr → Bool
  | [] => false
  | [i] => i = .endRequest
  | i :: rest => i.isData && requestTailWellFormed rest

/-- R140: a well-formed request is `INIT`, then any number of `BYTE` and `CHAR` commands, then `END`. -/
def requestWellFormed : List Instr → Bool
  | [] => false
  | i :: rest => i = .init && requestTailWellFormed rest

end Sys2Proof
end

