-- ==== Sys2Proof/Safety.lean ====
section
/-! DEFINITION. What counts as a good state and a correct host, in the terms the statements use. -/

namespace Sys2Proof.Machine

/-- `k` steps, stopping at the first fault or refusal: the host interface's run, over the state by its own name. -/
def runSteps : Nat → State → Host.Outcome State Fault Refusal
  | 0, s => .next s
  | k + 1, s =>
    match step s with
    | .next t => runSteps k t
    | .fault r => .fault r
    | .refused r => .refused r

/-- The invariants (a), (b), (c) of rule R34; (d) is the last line. -/
def Consistent (s : State) : Prop :=
  (s.ec ≠ none ↔ s.ph = .fail) ∧
  (s.ph = .idle → registers s = registers State.reset) ∧
  (s.ph = .done → s.hnv = false ∧ s.ne = true ∧ s.ec = none) ∧
  ¬((status s).getLsbD 22 = true ∧ (status s).getLsbD 23 = true)

/-- The list ends with the items `last`. -/
def EndsWith (items last : List Byte) : Prop := ∃ earlier, items = earlier ++ last

/-- What the streams hold of the open or finished request (R29, R41, R42, R94, R129).
In `RUN` there is a Byte Sequence, the bytes absorbed so far: `BO` ends with it, `TXT` ends with its `encode`, `CRC` is its
`compute`, and `NE` says whether it is empty. In `DONE` it is not empty, and the streams end with the binary frame and
with `encodeFrame`, the checksum low byte first. -/
def StreamsAgree (s : State) : Prop :=
  (s.ph = .run → ∃ bytes : ByteSeq,
    EndsWith s.bo bytes ∧ EndsWith s.txt (encodeText bytes) ∧
    s.crc = compute bytes ∧ s.ne = !bytes.isEmpty) ∧
  (s.ph = .done → ∃ bytes : ByteSeq, bytes ≠ [] ∧
    EndsWith s.bo (bytes ++ [lowByte (compute bytes), highByte (compute bytes)]) ∧
    EndsWith s.txt (encodeFrame bytes (compute bytes)) ∧
    s.crc = compute bytes ∧ s.ne = true)

/-- A request has ended (R190): a command has completed that left `PH = DONE` or `PH = FAIL`. -/
def RequestEnded (s : State) : Prop := s.ph = .done ∨ s.ph = .fail

/-- The items of the request are a result (R185), and `STATUS[15:0]` is its Checksum (R186 (b)). -/
def ResultValid (s : State) : Prop := s.ph = .done

/-- The commands a correct host may issue here (R184): `INIT` always; `CHAR` and `END` in `RUN`; `BYTE` in `RUN` with no
pair open. -/
def legalHere (i : Instr) (s : State) : Bool :=
  match i with
  | .init => true
  | .byte _ => s.ph = .run && !s.hnv
  | .char _ => s.ph = .run
  | .endRequest => s.ph = .run

end Sys2Proof.Machine
end

