-- ==== Sys2Proof/Certificates/Slice0/Obligations.lean ====
section
/-! DEFINITION. The statements about the block, each from the numbered rules its docstring names. -/

open Sys2Proof Sys2Proof.Machine

/-! ## Encoding -/

/-- R62 on the boundary words of `95_test_vectors.md` section 5.2, each word written out from the fields of R60. -/
def Obligations.DecodeBoundaryWords : Prop :=
  decodeCw 0b0000000000#10 = .legal .init ∧
  decodeCw 0b0000000001#10 = .illegal .reservedInInit ∧
  decodeCw 0b0010000000#10 = .illegal .reservedInInit ∧
  decodeCw 0b0011111111#10 = .illegal .reservedInInit ∧
  decodeCw 0b0100000000#10 = .legal (.byte 0x00#8) ∧
  decodeCw 0b0111111111#10 = .legal (.byte 0xFF#8) ∧
  decodeCw 0b1000000000#10 = .legal (.char 0x00#8) ∧
  decodeCw 0b1011111111#10 = .legal (.char 0xFF#8) ∧
  decodeCw 0b1100000000#10 = .legal .endRequest ∧
  decodeCw 0b1100000001#10 = .illegal .reservedInEnd ∧
  decodeCw 0b1111111111#10 = .illegal .reservedInEnd

/-- R62: how many of the 1024 words the decoder gives each answer for. -/
def Obligations.DecoderCountsWords : Prop :=
  let words := (List.range 1024).map (BitVec.ofNat 10)
  (words.filter (fun w => decodeCw w = .legal .init)).length = 1 ∧
  (words.filter (fun w => decodeCw w = .legal (.byte (dataField w)))).length = 256 ∧
  (words.filter (fun w => decodeCw w = .legal (.char (dataField w)))).length = 256 ∧
  (words.filter (fun w => decodeCw w = .legal .endRequest)).length = 1 ∧
  (words.filter (fun w => decodeCw w = .illegal .reservedInInit ∨ decodeCw w = .illegal .reservedInEnd)).length = 510

/-- R61: a word selects a command's row by mask and match exactly when the decoder answers that command (with the operand
in bits 7:0), and no word selects two rows. -/
def Obligations.OpcodeRowsSelectAndAreDisjoint : Prop :=
  (∀ w : CmdWord,
    (rowSelected (opcodeRow .init) w = true ↔ decodeCw w = .legal .init) ∧
    (∀ d, rowSelected (opcodeRow (.byte d)) w = true ↔ decodeCw w = .legal (.byte (dataField w))) ∧
    (∀ c, rowSelected (opcodeRow (.char c)) w = true ↔ decodeCw w = .legal (.char (dataField w))) ∧
    (rowSelected (opcodeRow .endRequest) w = true ↔ decodeCw w = .legal .endRequest)) ∧
  (∀ (w : CmdWord) (i j : Instr),
    rowSelected (opcodeRow i) w = true → rowSelected (opcodeRow j) w = true → opcodeRow i = opcodeRow j)

/-- R61, R62: decoding and encoding agree in both directions. The decoder answers a command for exactly one word, the one
the encoder gives it, with every operand at every value; so no bit of a legal word is dropped. -/
def Obligations.DecodeAnswersExactlyTheEncodedWord : Prop :=
  ∀ (w : CmdWord) (i : Instr), decodeCw w = .legal i ↔ w = encode i

/-! ## The step and the host's events -/

/-- R43, R146 (check 1): the step takes the word at the head of `CMD`, and runs the command it decodes to in the state
from which the word has been taken. -/
def Obligations.StepRunsTheDecodedCommand : Prop :=
  ∀ (s : State) (w : CmdWord) (rest : List HostEvent) (i : Instr),
    s.input = .command w :: rest → decodeCw w = .legal i →
      step s = exec i { s with input := rest }

/-- R145: an illegal word is discarded in `FAIL` and raises `CommandError` in the other three phases; it writes no other
register and emits nothing. -/
def Obligations.IllegalWordIsDiscardedOrRaisesCommandError : Prop :=
  ∀ (s : State) (w : CmdWord) (rest : List HostEvent),
    s.input = .command w :: rest →
    (opField w = 0b00#2 ∨ opField w = 0b11#2) → dataField w ≠ 0x00#8 →
      step s = if s.ph = .fail then .next { s with input := rest }
               else .next { s with input := rest, ph := .fail, ec := some .commandError }

/-- R176, R180: with nothing presented the block holds its state. -/
def Obligations.BlockHoldsItsStateWhileNothingIsPresented : Prop :=
  ∀ s : State, s.input = [] → step s = .next s

/-- R180, R181: a reset between commands, from any state: the registers take their reset values, nothing is emitted, the
items the host already has stay with it, and no error is raised. -/
def Obligations.ResetEventRestoresTheRegisters : Prop :=
  ∀ (s : State) (rest : List HostEvent), s.input = .reset :: rest →
    ∃ t, step s = .next t ∧ registers t = (.idle, none, 0xFFFF#16, 0x0#4, false, false) ∧
      status t = 0x00FFFF#24 ∧ t.bo = s.bo ∧ t.txt = s.txt ∧ t.input = rest ∧ t.cfg = s.cfg

/-- R181, I9: a reset inside a command leaves the reset state whatever the command was, and the host has taken, on each
stream, a first part of the items the completed command would have emitted; every first part can occur. -/
def Obligations.ResetInsideACommandDeliversAFirstPart : Prop :=
  ∀ (s : State) (w : CmdWord) (m n : Nat) (rest : List HostEvent),
    s.input = .resetDuring w m n :: rest →
      ∃ t c bo txt, step { s with input := .command w :: rest } = .next c ∧
        c.bo = s.bo ++ bo ∧ c.txt = s.txt ++ txt ∧
        step s = .next t ∧ registers t = (.idle, none, 0xFFFF#16, 0x0#4, false, false) ∧
        t.bo = s.bo ++ bo.take m ∧ t.txt = s.txt ++ txt.take n ∧ t.input = rest ∧ t.cfg = s.cfg

/-- R32: the state after reset, and what the host then reads on `status`. -/
def Obligations.ResetStateHoldsTheResetValues : Prop :=
  State.reset.ph = .idle ∧ State.reset.ec = none ∧ State.reset.crc = 0xFFFF#16 ∧ State.reset.hn = 0x0#4 ∧
  State.reset.hnv = false ∧ State.reset.ne = false ∧ status State.reset = 0x00FFFF#24 ∧
  State.reset.bo = [] ∧ State.reset.txt = []

/-- R64, R147: every step answers a next state, in every state and for every word.
That no step ends in a fault or a refusal is the model's reading (log entry 11, DEDUCED). That a step always completes, so
that the block never stops, is the model's choice (log entry 7, DESIGN CHOICE): it rests on the fairness R59 assumes, a host
that accepts every item; with a host that never does, the block takes no further command (R59, I12), which the model does
not show. -/
def Obligations.EveryStepAnswersANextState : Prop :=
  ∀ s : State, ∃ t, step s = .next t

/-! ## The four commands -/

/-- R141: `INIT`, in every phase, writes all six registers and emits nothing; two in a row equal one. -/
def Obligations.InitOpensARequestInEveryPhase : Prop :=
  (∀ s : State,
    exec .init s =
      .next { s with ph := .run, ec := none, crc := 0xFFFF#16, hn := 0x0#4, hnv := false, ne := false }) ∧
  (∀ s t : State, exec .init s = .next t → exec .init t = .next t)

/-- R89: `BYTE d` in `RUN`: a `CommandError` with a pair open, else the byte is absorbed. -/
def Obligations.ByteInRunAbsorbsUnlessAPairIsOpen : Prop :=
  ∀ (d : Byte) (s : State), s.ph = .run →
    exec (.byte d) s =
      if s.hnv then .next { s with ph := .fail, ec := some .commandError }
      else .next { s with
        bo := s.bo ++ [d]
        txt := s.txt ++ (if s.ne then [0x20#8] else []) ++ [hexdigit (highNibble d), hexdigit (lowNibble d)]
        crc := crcByte s.crc d
        ne := true }

/-- R90: `BYTE d` outside `RUN`. -/
def Obligations.ByteOutsideRunIsDiscardedOrRaises : Prop :=
  ∀ (d : Byte) (s : State), s.ph ≠ .run →
    exec (.byte d) s =
      if s.ph = .fail then .next s else .next { s with ph := .fail, ec := some .commandError }

/-- R108: `CHAR c` in `RUN`, by the class of the character: whitespace does nothing, a character of class `OTHER` raises
`ParseError`, a first digit is held, a second digit completes the byte `HN : v`, which is absorbed, and leaves `HN`. -/
def Obligations.CharInRunFollowsTheClassOfTheCharacter : Prop :=
  ∀ (c : Byte) (s : State), s.ph = .run →
    exec (.char c) s =
      match classify s.cfg c with
      | .ws => .next s
      | .other => .next { s with ph := .fail, ec := some .parseError }
      | .hex v =>
        if s.hnv then .next { s with
          hnv := false
          bo := s.bo ++ [s.hn ++ v]
          txt := s.txt ++ (if s.ne then [0x20#8] else []) ++ [hexdigit s.hn, hexdigit v]
          crc := crcByte s.crc (s.hn ++ v)
          ne := true }
        else .next { s with hn := v, hnv := true }

/-- R109: `CHAR c` outside `RUN`, whatever `c` is. -/
def Obligations.CharOutsideRunIsDiscardedOrRaises : Prop :=
  ∀ (c : Byte) (s : State), s.ph ≠ .run →
    exec (.char c) s =
      if s.ph = .fail then .next s else .next { s with ph := .fail, ec := some .commandError }

/-- R143: `END` in `RUN`: an open pair is a `ParseError`, no byte absorbed an `EmptyInputError`, in this order; otherwise the
Checksum is appended to both streams, low byte first, and the phase is `DONE`. -/
def Obligations.EndInRunChecksThenAppendsTheChecksum : Prop :=
  ∀ s : State, s.ph = .run →
    exec .endRequest s =
      if s.hnv then .next { s with ph := .fail, ec := some .parseError }
      else if s.ne = false then .next { s with ph := .fail, ec := some .emptyInputError }
      else .next { s with
        ph := .done
        bo := s.bo ++ [s.crc.extractLsb' 0 8, s.crc.extractLsb' 8 8]
        txt := s.txt ++
          [0x20#8, hexdigit (s.crc.extractLsb' 4 4), hexdigit (s.crc.extractLsb' 0 4),
           0x20#8, hexdigit (s.crc.extractLsb' 12 4), hexdigit (s.crc.extractLsb' 8 4)] }

/-- R144: `END` outside `RUN`. -/
def Obligations.EndOutsideRunIsDiscardedOrRaises : Prop :=
  ∀ s : State, s.ph ≠ .run →
    exec .endRequest s =
      if s.ph = .fail then .next s else .next { s with ph := .fail, ec := some .commandError }

/-! ## Frames -/

/-- R141: what `INIT` leaves unchanged: both streams, what the host does next, the configuration. -/
def Obligations.InitFrame : Prop :=
  ∀ s t : State, exec .init s = .next t →
    t.bo = s.bo ∧ t.txt = s.txt ∧ t.input = s.input ∧ t.cfg = s.cfg

/-- R89, R90: what `BYTE` leaves unchanged. `HN` and `HNV` always; `PH` and `EC` unless it raises; `CRC`, `NE` and both
streams where it raises or is discarded; and what is already on the streams always. -/
def Obligations.ByteFrame : Prop :=
  ∀ (d : Byte) (s t : State), exec (.byte d) s = .next t →
    t.hn = s.hn ∧ t.hnv = s.hnv ∧ t.input = s.input ∧ t.cfg = s.cfg ∧
    (s.ph = .run ∧ s.hnv = false → t.ph = s.ph ∧ t.ec = s.ec ∧
      t.bo.take s.bo.length = s.bo ∧ t.txt.take s.txt.length = s.txt) ∧
    (¬ (s.ph = .run ∧ s.hnv = false) → t.crc = s.crc ∧ t.ne = s.ne ∧ t.bo = s.bo ∧ t.txt = s.txt) ∧
    (s.ph = .fail → t.ph = s.ph ∧ t.ec = s.ec)

/-- R108, R109: what `CHAR` leaves unchanged. `PH` and `EC` on whitespace and on digits in `RUN`; `CRC`, `NE` and both
streams unless a second digit completes a byte; `HN` unless a first digit is held; `HNV` unless a digit is taken. -/
def Obligations.CharFrame : Prop :=
  ∀ (c : Byte) (s t : State), exec (.char c) s = .next t →
    t.input = s.input ∧ t.cfg = s.cfg ∧
    ((s.ph = .run ∧ classify s.cfg c ≠ .other) ∨ s.ph = .fail → t.ph = s.ph ∧ t.ec = s.ec) ∧
    (¬ (s.ph = .run ∧ s.hnv = true ∧ ∃ v, classify s.cfg c = .hex v) →
      t.crc = s.crc ∧ t.ne = s.ne ∧ t.bo = s.bo ∧ t.txt = s.txt) ∧
    (¬ (s.ph = .run ∧ s.hnv = false ∧ ∃ v, classify s.cfg c = .hex v) → t.hn = s.hn) ∧
    (¬ (s.ph = .run ∧ ∃ v, classify s.cfg c = .hex v) → t.hnv = s.hnv) ∧
    t.bo.take s.bo.length = s.bo ∧ t.txt.take s.txt.length = s.txt

/-- R143, R144: what `END` leaves unchanged: `CRC`, `HN`, `HNV` and `NE` always, `EC` where it succeeds, and both streams
where it does not. -/
def Obligations.EndFrame : Prop :=
  ∀ s t : State, exec .endRequest s = .next t →
    t.crc = s.crc ∧ t.hn = s.hn ∧ t.hnv = s.hnv ∧ t.ne = s.ne ∧ t.input = s.input ∧ t.cfg = s.cfg ∧
    (s.ph = .run ∧ s.hnv = false ∧ s.ne = true → t.ec = s.ec) ∧
    (¬ (s.ph = .run ∧ s.hnv = false ∧ s.ne = true) → t.bo = s.bo ∧ t.txt = s.txt) ∧
    (s.ph = .fail → t.ph = s.ph ∧ t.ec = s.ec) ∧
    t.bo.take s.bo.length = s.bo ∧ t.txt.take s.txt.length = s.txt

/-! ## Errors -/

/-- R164: error entry writes `PH` and `EC` and nothing else, shows `ERR` and the code on `status`, and no later word but
`INIT` has any effect. -/
def Obligations.RaiseWritesOnlyPhaseAndCode : Prop :=
  ∀ (e : Err) (s : State),
    raise e s = { s with ph := .fail, ec := some e } ∧
    (status (raise e s)).getLsbD 23 = true ∧ (status (raise e s)).extractLsb' 18 2 = errCode e ∧
    ∀ (w : CmdWord) (rest : List HostEvent), w ≠ 0x000#10 →
      step { raise e s with input := .command w :: rest } = .next { raise e s with input := rest }

/-- R160: the codes of `EC`, which words raise which error in a phase other than `FAIL`, and that `EC` is the whole record:
but for `PH`, `EC` and the word taken, the state is as it was. -/
def Obligations.ErrorsAreRaisedByTheirCausesAlone : Prop :=
  (ecCode none = 0#2 ∧ ecCode (some .parseError) = 1#2 ∧ ecCode (some .emptyInputError) = 2#2 ∧
    ecCode (some .commandError) = 3#2) ∧
  ∀ (s t : State) (w : CmdWord) (rest : List HostEvent),
    s.input = .command w :: rest → s.ph ≠ .fail → step s = .next t →
      ((t.ph = .fail ∧ t.ec = some .parseError) ↔
        s.ph = .run ∧ ((∃ c, decodeCw w = .legal (.char c) ∧ classify s.cfg c = .other) ∨
          (decodeCw w = .legal .endRequest ∧ s.hnv = true))) ∧
      ((t.ph = .fail ∧ t.ec = some .emptyInputError) ↔
        s.ph = .run ∧ decodeCw w = .legal .endRequest ∧ s.hnv = false ∧ s.ne = false) ∧
      ((t.ph = .fail ∧ t.ec = some .commandError) ↔
        (∃ why, decodeCw w = .illegal why) ∨
        (s.ph ≠ .run ∧ decodeCw w ≠ .legal .init) ∨
        (s.hnv = true ∧ ∃ d, decodeCw w = .legal (.byte d))) ∧
      (t.ph = .fail → t = { s with input := rest, ph := .fail, ec := t.ec })

/-- R165: in `FAIL` every word but `INIT` is discarded: no register changes, nothing is emitted, `EC` keeps the first
code. -/
def Obligations.FailDiscardsEveryWordButInit : Prop :=
  ∀ (s : State) (w : CmdWord) (rest : List HostEvent),
    s.ph = .fail → s.input = .command w :: rest → w ≠ encode .init →
      step s = .next { s with input := rest }

/-- R166: the only ways out of `FAIL` are `INIT`, to `RUN`, and reset, to `IDLE`. -/
def Obligations.OnlyInitOrResetLeavesFail : Prop :=
  ∀ (s t : State) (e : HostEvent) (rest : List HostEvent),
    s.ph = .fail → s.input = e :: rest → step s = .next t → t.ph ≠ .fail →
      (e = .command (encode .init) ∧ t = { s with
        input := rest, ph := .run, ec := none, crc := 0xFFFF#16, hn := 0x0#4, hnv := false, ne := false }) ∨
      ((e = .reset ∨ ∃ w m n, e = .resetDuring w m n) ∧
        registers t = (.idle, none, 0xFFFF#16, 0x0#4, false, false))

/-- R184: a host that issues only commands legal where they stand never causes a `CommandError`, and one that does not
always gets one, except in `FAIL`, where the command is discarded. -/
def Obligations.CommandErrorExactlyForMisplacedCommands : Prop :=
  ∀ (s : State) (i : Instr), s.ph ≠ .fail →
    ∃ t, exec i s = .next t ∧ ((t.ph = .fail ∧ t.ec = some .commandError) ↔ legalHere i s = false)

/-- R152: in `DONE` and in `FAIL` no word but `INIT` changes `CRC`, `HN`, `HNV` or `NE` (so `STATUS[15:0]` stands), and in
`DONE` every one of them raises `CommandError`. -/
def Obligations.FinishedResultIsStable : Prop :=
  ∀ (s : State) (w : CmdWord) (rest : List HostEvent),
    s.ph = .done ∨ s.ph = .fail → s.input = .command w :: rest → w ≠ encode .init →
      ∃ t, step s = .next t ∧
        t.crc = s.crc ∧ t.hn = s.hn ∧ t.hnv = s.hnv ∧ t.ne = s.ne ∧
        (status t).extractLsb' 0 16 = (status s).extractLsb' 0 16 ∧
        (s.ph = .done → t.ph = .fail ∧ t.ec = some .commandError ∧ (status t).getLsbD 22 = false)

/-! ## Invariants -/

/-- R34: every step keeps the invariants (a) to (d) of the registers. -/
def Obligations.EveryStepKeepsTheRegistersConsistent : Prop :=
  ∀ s t : State, Consistent s → step s = .next t → Consistent t

/-- R34: the reset state meets them. -/
def Obligations.ResetStateIsConsistent : Prop := Consistent State.reset

/-- R29, R41, R42: every step keeps the agreement of the registers with the streams. So whenever a run shows `DONE`, `BO`
ends with a binary frame, `TXT` ends with the text of that frame, and `CRC` is the Checksum of its bytes. -/
def Obligations.EveryStepKeepsTheStreamsInAgreement : Prop :=
  ∀ s t : State, StreamsAgree s → step s = .next t → StreamsAgree t

/-- R29, R41, R42: the reset state meets the agreement. -/
def Obligations.ResetStateHasStreamsInAgreement : Prop := StreamsAgree State.reset

/-- R33, R181: no step, of any event, takes back or rewrites an item already emitted. -/
def Obligations.EmittedItemsAreNeverTakenBack : Prop :=
  ∀ s t : State, step s = .next t → ∃ bo txt, t.bo = s.bo ++ bo ∧ t.txt = s.txt ++ txt

/-- R5, R6, R29: no command and no reset changes the configuration, so an admissible `WS_SET` stays admissible. -/
def Obligations.ConfigurationIsNeverWritten : Prop :=
  ∀ s t : State, step s = .next t → t.cfg = s.cfg ∧ (s.cfg.wellFormed = true → t.cfg.wellFormed = true)

/-- R21, R22, R25, R26: the events that can change `CRC`, `HN`, `HNV` and `NE`. `CRC` and `NE` change only at `INIT`, at
reset, and where a byte is absorbed and so appears on `BO`; `HN` and `HNV` only at `INIT`, at reset and at a hexadecimal
digit in `RUN`. -/
def Obligations.DatapathRegistersChangeOnlyByTheirEvents : Prop :=
  ∀ (s t : State) (e : HostEvent) (rest : List HostEvent), s.input = e :: rest → step s = .next t →
    e = .command (encode .init) ∨ e = .reset ∨ (∃ w m n, e = .resetDuring w m n) ∨
    ((t.crc ≠ s.crc ∨ t.ne ≠ s.ne →
        s.ph = .run ∧ ∃ b, t.bo = s.bo ++ [b] ∧ t.crc = crcByte s.crc b ∧ t.ne = true) ∧
     (t.hn ≠ s.hn ∨ t.hnv ≠ s.hnv →
        s.ph = .run ∧ t.hnv = !s.hnv ∧ ∃ c v, e = .command (encode (.char c)) ∧ classify s.cfg c = .hex v))

/-! ## Whole requests -/

/-- R140, R190: every well-formed request ends, in `DONE` or in `FAIL`, after its last command, from any state; and one
that holds no `BYTE` never ends in a `CommandError`.
That each of its commands completes is the model's choice (log entry 7, DESIGN CHOICE), under the fairness R59 assumes: a
host that never accepts an item keeps the request from ending (R59, I12), and the model does not show it. -/
def Obligations.WellFormedRequestEnds : Prop :=
  ∀ (s : State) (cmds : List Instr), requestWellFormed cmds = true →
    ∃ t, runSteps cmds.length { s with input := present cmds } = .next t ∧ RequestEnded t ∧
      t.input = [] ∧ (t.ec = some .commandError → ∃ d, .byte d ∈ cmds)

/-- R151: the registers and the emissions of a request are a function of its own words: two blocks of one configuration, in
any two states, that are given `INIT` and then the same words, end with the same registers and have emitted the same
items. -/
def Obligations.InitForgetsThePast : Prop :=
  ∀ (s₁ s₂ : State) (words : List CmdWord), s₁.cfg = s₂.cfg →
    let events := HostEvent.command (encode .init) :: words.map .command
    ∃ t₁ t₂ bo txt,
      runSteps events.length { s₁ with input := events } = .next t₁ ∧
      runSteps events.length { s₂ with input := events } = .next t₂ ∧
      registers t₁ = registers t₂ ∧
      t₁.bo = s₁.bo ++ bo ∧ t₂.bo = s₂.bo ++ bo ∧ t₁.txt = s₁.txt ++ txt ∧ t₂.txt = s₂.txt ++ txt

/-- R148: a raw-byte request, from any state, before and after its `END`. -/
def Obligations.RawByteRequestComputesTheFrame : Prop :=
  ∀ (s : State) (bytes : ByteSeq),
    (∃ t, runSteps (bytes.length + 1)
        { s with input := present (.init :: bytesCommands bytes) } = .next t ∧
      registers t = (.run, none, compute bytes, 0x0#4, false, !bytes.isEmpty) ∧
      t.bo = s.bo ++ bytes ∧ t.txt = s.txt ++ encodeText bytes) ∧
    (∃ t, runSteps (bytes.length + 2) { s with input := present (frameCommands bytes) } = .next t ∧
      (bytes ≠ [] →
        registers t = (.done, none, compute bytes, 0x0#4, false, true) ∧
        t.bo = s.bo ++ bytes ++ [lowByte (compute bytes), highByte (compute bytes)] ∧
        t.txt = s.txt ++ encodeFrame bytes (compute bytes)) ∧
      (bytes = [] →
        registers t = (.fail, some .emptyInputError, 0xFFFF#16, 0x0#4, false, false) ∧
        t.bo = s.bo ∧ t.txt = s.txt))

/-- R149: a text request whose line decodes to at least one byte, from any state. -/
def Obligations.TextRequestComputesTheFrame : Prop :=
  ∀ (s : State) (text : Text) (first : ByteSeq) (last : Byte),
    decodeText s.cfg text = some (first ++ [last]) →
      let bytes := first ++ [last]
      (∃ t, runSteps (text.length + 1) { s with input := present (.init :: textCommands text) } = .next t ∧
        t.txt = s.txt ++ encodeText bytes) ∧
      (∃ t, runSteps (text.length + 2) { s with input := present (lineCommands text) } = .next t ∧
        registers t = (.done, none, compute bytes, highNibble last, false, true) ∧
        t.bo = s.bo ++ bytes ++ [lowByte (compute bytes), highByte (compute bytes)] ∧
        t.txt = s.txt ++ encodeFrame bytes (compute bytes))

/-- R150: how a text request fails, from any state, and that it fails in no other way. -/
def Obligations.TextRequestFailsExactlyAsDecodeDoes : Prop :=
  ∀ (s : State) (text : Text),
    ∃ t, runSteps (text.length + 2) { s with input := present (lineCommands text) } = .next t ∧
      (decodeText s.cfg text = none → t.ph = .fail ∧ t.ec = some .parseError) ∧
      (decodeText s.cfg text = some [] →
        registers t = (.fail, some .emptyInputError, 0xFFFF#16, 0x0#4, false, false) ∧
        t.bo = s.bo ∧ t.txt = s.txt) ∧
      (t.ph = .fail → decodeText s.cfg text = none ∨ decodeText s.cfg text = some [])

/-- R110: the characters of a text after `INIT`, one `CHAR` each, against `decode` of the text; and with `END` after them
the request fails with `ParseError` exactly when `decode` does.
The clause on `HN` is given for `HNV = 1` alone: that R110 (b) means it so is the model's reading (log entry 13, DEDUCED). -/
def Obligations.CharCommandsAgreeWithDecode : Prop :=
  ∀ (s : State) (text : Text),
    let cleaned := clean s.cfg text
    ∃ t, runSteps (text.length + 1) { s with input := present (.init :: textCommands text) } = .next t ∧
      ((∃ c ∈ text, classify s.cfg c = .other) →
        t.ph = .fail ∧ ecCode t.ec = 1#2 ∧ decodeText s.cfg text = none) ∧
      ((∀ c ∈ text, classify s.cfg c ≠ .other) →
        t.ph = .run ∧
        (∃ bytes, parseGroups s.cfg (cleaned.take (2 * (cleaned.length / 2))) = some bytes ∧
          t.bo = s.bo ++ bytes ∧
          (t.hnv = false → decodeText s.cfg text = some bytes)) ∧
        (t.hnv = true ↔ cleaned.length % 2 = 1) ∧
        (∀ c, cleaned.getLast? = some c → t.hnv = true → classify s.cfg c = .hex t.hn) ∧
        (t.hnv = true → decodeText s.cfg text = none)) ∧
      ∃ u, runSteps (text.length + 2) { s with input := present (lineCommands text) } = .next u ∧
        ((u.ph = .fail ∧ u.ec = some .parseError) ↔ decodeText s.cfg text = none)

/-! ## The CRC Engine -/

/-- R82: the exclusive or of the byte touches bits 7:0 alone. -/
def Obligations.CrcXorTouchesTheLowByteAlone : Prop :=
  ∀ (r : Half) (b : Byte),
    crcXor r b = r ^^^ b.setWidth 16 ∧
    (crcXor r b).extractLsb' 8 8 = r.extractLsb' 8 8 ∧ (crcXor r b).extractLsb' 0 8 = r.extractLsb' 0 8 ^^^ b

/-- R83, R84: one iteration, and the whole of step 3 as exactly eight of them after the one exclusive or. -/
def Obligations.ShiftAndByteStepFollowTheAlgorithm : Prop :=
  (∀ r : Half, r.getLsbD 0 = true → shift1 r = (r >>> 1) ^^^ 0xA001#16) ∧
  (∀ r : Half, r.getLsbD 0 = false → shift1 r = r >>> 1) ∧
  (∀ (r : Half) (b : Byte), crcByte r b = Nat.iterate shift1 8 (crcXor r b))

/-- R85: the whole computation. -/
def Obligations.ComputeIsTheFoldFromAllOnes : Prop :=
  compute [] = 0xFFFF#16 ∧
  (∀ (bytes : ByteSeq) (b : Byte), compute (bytes ++ [b]) = crcByte (compute bytes) b)

/-- R88: one iteration as wires, bit by bit. -/
def Obligations.ShiftRegisterAsWires : Prop :=
  ∀ r : Half,
    (shift1 r).getLsbD 15 = r.getLsbD 0 ∧
    (shift1 r).getLsbD 14 = r.getLsbD 15 ∧
    (shift1 r).getLsbD 13 = (r.getLsbD 14 ^^ r.getLsbD 0) ∧
    (∀ i, 1 ≤ i → i ≤ 12 → (shift1 r).getLsbD i = r.getLsbD (i + 1)) ∧
    (shift1 r).getLsbD 0 = (r.getLsbD 1 ^^ r.getLsbD 0) ∧
    shift1 r = shift1Wires r

/-- R91: the lookup-table form computes the same function, and one iteration distributes over exclusive or. -/
def Obligations.TableFormComputesTheSameStep : Prop :=
  (∀ x y : Half, shift1 (x ^^^ y) = shift1 x ^^^ shift1 y) ∧
  (∀ i : Byte, tableEntry i = Nat.iterate shift1 8 (i.setWidth 16)) ∧
  (∀ (r : Half) (b : Byte),
    crcByte r b = (r >>> 8) ^^^ tableEntry ((r ^^^ b.setWidth 16).extractLsb' 0 8))

/-- R92: the bit-serial form computes the same function. -/
def Obligations.BitSerialFormComputesTheSameStep : Prop :=
  ∀ (r : Half) (b : Byte), crcByteSerial r b = crcByte r b

/-- R93 (a), (b): a byte equal to the register's low byte only shifts, and a frame followed by its checksum, low byte
first, leaves the register at zero. -/
def Obligations.AppendedChecksumLeavesZero : Prop :=
  (∀ r : Half, crcByte r (lowByte r) = r >>> 8) ∧
  (∀ bytes : ByteSeq, compute (bytes ++ [lowByte (compute bytes), highByte (compute bytes)]) = 0x0000#16)

/-! ## The Hex Codec -/

/-- R104: the classes, for an admissible `WS_SET`: every member is whitespace, the 22 digits have their values in either
case, and everything else is `OTHER`. -/
def Obligations.CharacterClassesForAdmissibleWhitespace : Prop :=
  ∀ (cfg : Config) (c : Byte), cfg.wellFormed = true →
    (classify cfg c = .ws ↔ c ∈ cfg.wsSet) ∧
    classify cfg 0x20#8 = .ws ∧
    (∀ n : Nat, n ≤ 9 → classify cfg (BitVec.ofNat 8 (0x30 + n)) = .hex (BitVec.ofNat 4 n)) ∧
    (∀ n : Nat, n ≤ 5 →
      classify cfg (BitVec.ofNat 8 (0x41 + n)) = .hex (BitVec.ofNat 4 (10 + n)) ∧
      classify cfg (BitVec.ofNat 8 (0x61 + n)) = .hex (BitVec.ofNat 4 (10 + n))) ∧
    (c ∉ cfg.wsSet → isHexDigitCode c = false → classify cfg c = .other)

/-- R100: when `decode` fails. -/
def Obligations.DecodeFailsOnOddLengthOrBadCharacter : Prop :=
  ∀ (cfg : Config) (t : Text),
    decodeText cfg t = none ↔
      ((t.filter (fun c => classify cfg c ≠ .ws)).length % 2 = 1 ∨ ∃ c ∈ t, classify cfg c = .other)

/-- R103: byte `k` of a decoded text comes from the cleaned text's characters `2k` and `2k+1`, the first giving the high
digit, so where the whitespace stood makes no difference. -/
def Obligations.DecodeTakesTwoCharacterGroupsInOrder : Prop :=
  (∀ (cfg : Config) (t : Text) (bytes : ByteSeq), decodeText cfg t = some bytes →
    (clean cfg t).length = 2 * bytes.length ∧
    ∀ (k : Nat) (b : Byte), bytes[k]? = some b →
      ∃ x y h l, (clean cfg t)[2 * k]? = some x ∧ (clean cfg t)[2 * k + 1]? = some y ∧
        classify cfg x = .hex h ∧ classify cfg y = .hex l ∧ b.toNat = 16 * h.toNat + l.toNat) ∧
  (∀ (cfg : Config) (t u : Text), clean cfg t = clean cfg u → decodeText cfg t = decodeText cfg u)

/-- R121, R122: the characters of a byte's token. -/
def Obligations.TokenIsTwoUpperCaseDigits : Prop :=
  (∀ n : Nat, n ≤ 9 → hexdigit (BitVec.ofNat 4 n) = BitVec.ofNat 8 (0x30 + n)) ∧
  (∀ n : Nat, n ≤ 5 → hexdigit (BitVec.ofNat 4 (10 + n)) = BitVec.ofNat 8 (0x41 + n)) ∧
  (∀ b : Byte, token b = [hexdigit (b.extractLsb' 4 4), hexdigit (b.extractLsb' 0 4)])

/-- R123: the whole text of a Byte Sequence, and its length. -/
def Obligations.EncodeJoinsTokensWithOneSpace : Prop :=
  encodeText [] = [] ∧
  (∀ b, encodeText [b] = token b) ∧
  (∀ (bytes : ByteSeq) (b : Byte), bytes ≠ [] →
    encodeText (bytes ++ [b]) = encodeText bytes ++ [0x20#8] ++ token b) ∧
  (∀ bytes : ByteSeq, bytes ≠ [] → (encodeText bytes).length = 3 * bytes.length - 1)

/-- R124, R125: the frame, with any checksum, low byte first; for the empty sequence it begins with a space. -/
def Obligations.FrameAppendsTheChecksumLowByteFirst : Prop :=
  (∀ (bytes : ByteSeq) (crc : Half),
    encodeFrame bytes crc =
      encodeText bytes ++ [0x20#8] ++ token (crc.extractLsb' 0 8) ++ [0x20#8] ++ token (crc.extractLsb' 8 8)) ∧
  (∀ crc : Half, encodeFrame [] crc = tail crc ∧ (tail crc).length = 6) ∧
  encodeFrame [] 0xFFFF#16 = [0x20#8, 0x46#8, 0x46#8, 0x20#8, 0x46#8, 0x46#8]

/-- R128: `decode(encode(b)) = b` for every Byte Sequence and every admissible `WS_SET`. -/
def Obligations.DecodeOfEncodeIsTheBytes : Prop :=
  ∀ (cfg : Config) (bytes : ByteSeq), cfg.wellFormed = true →
    decodeText cfg (encodeText bytes) = some bytes

/-! ## The status vector and the host -/

/-- R29: the fields of `STATUS`. -/
def Obligations.StatusShowsTheRegisters : Prop :=
  ∀ s : State,
    (status s).extractLsb' 0 16 = s.crc ∧
    (status s).extractLsb' 16 2 = phaseCode s.ph ∧
    (status s).extractLsb' 18 2 = ecCode s.ec ∧
    (status s).getLsbD 20 = s.hnv ∧
    (status s).getLsbD 21 = s.ne ∧
    ((status s).getLsbD 22 = true ↔ s.ph = .done) ∧
    ((status s).getLsbD 23 = true ↔ s.ph = .fail)

/-- R172, R190: the host's verdict, read from `STATUS` alone, is to keep the items exactly in `DONE`, to discard and report
exactly in `FAIL`, and otherwise the request has not ended. -/
def Obligations.HostVerdictFollowsThePhase : Prop :=
  ∀ s : State,
    (hostVerdict (status s) = .keep ↔ s.ph = .done) ∧
    (hostVerdict (status s) = .discardAndReport ↔ s.ph = .fail) ∧
    (hostVerdict (status s) = .pending ↔ ¬ RequestEnded s)
end

