-- ==== Sys2Proof/Laws/Codec.lean ====
section
/-! SUPPORT. The equations of the codec's functions, one lemma per case, so that no proof unfolds them. -/

namespace Sys2Proof.Machine

@[simp] theorem token_length (b : Byte) : (token b).length = 2 := rfl

@[simp] theorem tail_length (crc : Half) : (tail crc).length = 6 := rfl

theorem encodeText_cons_cons (a b : Byte) (rest : ByteSeq) :
    encodeText (a :: b :: rest) = token a ++ space :: encodeText (b :: rest) := rfl

/-- A digit value read back from its two nibbles. -/
theorem joinNibbles_nibbles (b : Byte) : joinNibbles (highNibble b) (lowNibble b) = b := by
  revert b; decide

@[simp] theorem clean_nil (cfg : Config) : clean cfg [] = [] := rfl

theorem clean_cons_ws (cfg : Config) (c : Byte) (t : Text) (h : classify cfg c = .ws) :
    clean cfg (c :: t) = clean cfg t := by
  simp [clean, h]

theorem clean_cons_of_not_ws (cfg : Config) (c : Byte) (t : Text) (h : classify cfg c ≠ .ws) :
    clean cfg (c :: t) = c :: clean cfg t := by
  simp [clean, h]

theorem clean_append (cfg : Config) (t u : Text) : clean cfg (t ++ u) = clean cfg t ++ clean cfg u := by
  simp [clean]

@[simp] theorem parseGroups_nil (cfg : Config) : parseGroups cfg [] = some [] := rfl

theorem parseGroups_hex (cfg : Config) (a b : Byte) (rest : Text) (h l : Nibble)
    (ha : classify cfg a = .hex h) (hb : classify cfg b = .hex l) :
    parseGroups cfg (a :: b :: rest) = (parseGroups cfg rest).map (joinNibbles h l :: ·) := by
  simp [parseGroups, ha, hb]

theorem parseGroups_other_left (cfg : Config) (a b : Byte) (rest : Text) (ha : classify cfg a = .other) :
    parseGroups cfg (a :: b :: rest) = none := by
  simp [parseGroups, ha]

theorem parseGroups_other_right (cfg : Config) (a b : Byte) (rest : Text) (hb : classify cfg b = .other) :
    parseGroups cfg (a :: b :: rest) = none := by
  cases h : classify cfg a <;> simp [parseGroups, hb, h]

end Sys2Proof.Machine
end

