-- ==== Sys2Proof/Laws/Engine.lean ====
section
/-! SUPPORT. Laws of the engine's shift (R93): with bit 0 clear it only shifts, and zero stays zero. -/

namespace Sys2Proof.Machine

theorem shift1_of_bit0 (r : Half) (h : r.getLsbD 0 = true) : shift1 r = (r >>> 1) ^^^ 0xA001#16 := by
  unfold shift1 polyReflected
  rw [if_pos h]

theorem shift1_of_not_bit0 (r : Half) (h : r.getLsbD 0 = false) : shift1 r = r >>> 1 := by
  unfold shift1
  rw [if_neg (by rw [h]; decide)]

@[simp] theorem shift1_zero : shift1 0x0000#16 = 0x0000#16 := by decide

@[simp] theorem shift8_zero : shift8 0x0000#16 = 0x0000#16 := by decide

/-- Zero register and zero byte stay zero. -/
theorem crcByte_zero_zero : crcByte 0x0000#16 0x00#8 = 0x0000#16 := by decide

/-- The two components of a Checksum put together again (R67). -/
theorem highByte_append_lowByte (v : Half) : (highByte v ++ lowByte v : BitVec (8 + 8)) = v := by
  ext i hi
  simp only [highByte, lowByte, BitVec.getElem_append, BitVec.getElem_extractLsb']
  split
  · simp [BitVec.getLsbD, BitVec.getElem_eq_testBit_toNat]
  · rename_i h
    have : 8 + (i - 8) = i := by omega
    simp [this, BitVec.getLsbD, BitVec.getElem_eq_testBit_toNat]

end Sys2Proof.Machine
end

