-- ==== Sys2Proof/Laws/State.lean ====
section
/-! SUPPORT. One lemma per field per named update of the state, each true by unfolding the update once, so that no later
proof unfolds a record update. -/

namespace Sys2Proof.Machine

/-! ### `holdDigit` -/

@[simp] theorem holdDigit_ph (v : Nibble) (s : State) : (holdDigit v s).ph = s.ph := rfl
@[simp] theorem holdDigit_ec (v : Nibble) (s : State) : (holdDigit v s).ec = s.ec := rfl
@[simp] theorem holdDigit_crc (v : Nibble) (s : State) : (holdDigit v s).crc = s.crc := rfl
@[simp] theorem holdDigit_hn (v : Nibble) (s : State) : (holdDigit v s).hn = v := rfl
@[simp] theorem holdDigit_hnv (v : Nibble) (s : State) : (holdDigit v s).hnv = true := rfl
@[simp] theorem holdDigit_ne (v : Nibble) (s : State) : (holdDigit v s).ne = s.ne := rfl
@[simp] theorem holdDigit_bo (v : Nibble) (s : State) : (holdDigit v s).bo = s.bo := rfl
@[simp] theorem holdDigit_txt (v : Nibble) (s : State) : (holdDigit v s).txt = s.txt := rfl
@[simp] theorem holdDigit_input (v : Nibble) (s : State) : (holdDigit v s).input = s.input := rfl
@[simp] theorem holdDigit_cfg (v : Nibble) (s : State) : (holdDigit v s).cfg = s.cfg := rfl

/-! ### `clearHnv` -/

@[simp] theorem clearHnv_ph (s : State) : (clearHnv s).ph = s.ph := rfl
@[simp] theorem clearHnv_ec (s : State) : (clearHnv s).ec = s.ec := rfl
@[simp] theorem clearHnv_crc (s : State) : (clearHnv s).crc = s.crc := rfl
@[simp] theorem clearHnv_hn (s : State) : (clearHnv s).hn = s.hn := rfl
@[simp] theorem clearHnv_hnv (s : State) : (clearHnv s).hnv = false := rfl
@[simp] theorem clearHnv_ne (s : State) : (clearHnv s).ne = s.ne := rfl
@[simp] theorem clearHnv_bo (s : State) : (clearHnv s).bo = s.bo := rfl
@[simp] theorem clearHnv_txt (s : State) : (clearHnv s).txt = s.txt := rfl
@[simp] theorem clearHnv_input (s : State) : (clearHnv s).input = s.input := rfl
@[simp] theorem clearHnv_cfg (s : State) : (clearHnv s).cfg = s.cfg := rfl

/-! ### `setNe` -/

@[simp] theorem setNe_ph (s : State) : (setNe s).ph = s.ph := rfl
@[simp] theorem setNe_ec (s : State) : (setNe s).ec = s.ec := rfl
@[simp] theorem setNe_crc (s : State) : (setNe s).crc = s.crc := rfl
@[simp] theorem setNe_hn (s : State) : (setNe s).hn = s.hn := rfl
@[simp] theorem setNe_hnv (s : State) : (setNe s).hnv = s.hnv := rfl
@[simp] theorem setNe_ne (s : State) : (setNe s).ne = true := rfl
@[simp] theorem setNe_bo (s : State) : (setNe s).bo = s.bo := rfl
@[simp] theorem setNe_txt (s : State) : (setNe s).txt = s.txt := rfl
@[simp] theorem setNe_input (s : State) : (setNe s).input = s.input := rfl
@[simp] theorem setNe_cfg (s : State) : (setNe s).cfg = s.cfg := rfl

/-! ### `emitBo` -/

@[simp] theorem emitBo_ph (b : Byte) (s : State) : (emitBo b s).ph = s.ph := rfl
@[simp] theorem emitBo_ec (b : Byte) (s : State) : (emitBo b s).ec = s.ec := rfl
@[simp] theorem emitBo_crc (b : Byte) (s : State) : (emitBo b s).crc = s.crc := rfl
@[simp] theorem emitBo_hn (b : Byte) (s : State) : (emitBo b s).hn = s.hn := rfl
@[simp] theorem emitBo_hnv (b : Byte) (s : State) : (emitBo b s).hnv = s.hnv := rfl
@[simp] theorem emitBo_ne (b : Byte) (s : State) : (emitBo b s).ne = s.ne := rfl
@[simp] theorem emitBo_bo (b : Byte) (s : State) : (emitBo b s).bo = s.bo ++ [b] := rfl
@[simp] theorem emitBo_txt (b : Byte) (s : State) : (emitBo b s).txt = s.txt := rfl
@[simp] theorem emitBo_input (b : Byte) (s : State) : (emitBo b s).input = s.input := rfl
@[simp] theorem emitBo_cfg (b : Byte) (s : State) : (emitBo b s).cfg = s.cfg := rfl

/-! ### `emitTxt` -/

@[simp] theorem emitTxt_ph (cs : Text) (s : State) : (emitTxt cs s).ph = s.ph := rfl
@[simp] theorem emitTxt_ec (cs : Text) (s : State) : (emitTxt cs s).ec = s.ec := rfl
@[simp] theorem emitTxt_crc (cs : Text) (s : State) : (emitTxt cs s).crc = s.crc := rfl
@[simp] theorem emitTxt_hn (cs : Text) (s : State) : (emitTxt cs s).hn = s.hn := rfl
@[simp] theorem emitTxt_hnv (cs : Text) (s : State) : (emitTxt cs s).hnv = s.hnv := rfl
@[simp] theorem emitTxt_ne (cs : Text) (s : State) : (emitTxt cs s).ne = s.ne := rfl
@[simp] theorem emitTxt_bo (cs : Text) (s : State) : (emitTxt cs s).bo = s.bo := rfl
@[simp] theorem emitTxt_txt (cs : Text) (s : State) : (emitTxt cs s).txt = s.txt ++ cs := rfl
@[simp] theorem emitTxt_input (cs : Text) (s : State) : (emitTxt cs s).input = s.input := rfl
@[simp] theorem emitTxt_cfg (cs : Text) (s : State) : (emitTxt cs s).cfg = s.cfg := rfl

/-! ### `raise` -/

@[simp] theorem raise_ph (e : Err) (s : State) : (raise e s).ph = .fail := rfl
@[simp] theorem raise_ec (e : Err) (s : State) : (raise e s).ec = some e := rfl
@[simp] theorem raise_crc (e : Err) (s : State) : (raise e s).crc = s.crc := rfl
@[simp] theorem raise_hn (e : Err) (s : State) : (raise e s).hn = s.hn := rfl
@[simp] theorem raise_hnv (e : Err) (s : State) : (raise e s).hnv = s.hnv := rfl
@[simp] theorem raise_ne (e : Err) (s : State) : (raise e s).ne = s.ne := rfl
@[simp] theorem raise_bo (e : Err) (s : State) : (raise e s).bo = s.bo := rfl
@[simp] theorem raise_txt (e : Err) (s : State) : (raise e s).txt = s.txt := rfl
@[simp] theorem raise_input (e : Err) (s : State) : (raise e s).input = s.input := rfl
@[simp] theorem raise_cfg (e : Err) (s : State) : (raise e s).cfg = s.cfg := rfl

/-! ### `openRequest` -/

@[simp] theorem openRequest_ph (s : State) : (openRequest s).ph = .run := rfl
@[simp] theorem openRequest_ec (s : State) : (openRequest s).ec = none := rfl
@[simp] theorem openRequest_crc (s : State) : (openRequest s).crc = crcInit := rfl
@[simp] theorem openRequest_hn (s : State) : (openRequest s).hn = 0x0#4 := rfl
@[simp] theorem openRequest_hnv (s : State) : (openRequest s).hnv = false := rfl
@[simp] theorem openRequest_ne (s : State) : (openRequest s).ne = false := rfl
@[simp] theorem openRequest_bo (s : State) : (openRequest s).bo = s.bo := rfl
@[simp] theorem openRequest_txt (s : State) : (openRequest s).txt = s.txt := rfl
@[simp] theorem openRequest_input (s : State) : (openRequest s).input = s.input := rfl
@[simp] theorem openRequest_cfg (s : State) : (openRequest s).cfg = s.cfg := rfl

/-! ### `closeRequest` -/

@[simp] theorem closeRequest_ph (s : State) : (closeRequest s).ph = .done := rfl
@[simp] theorem closeRequest_ec (s : State) : (closeRequest s).ec = s.ec := rfl
@[simp] theorem closeRequest_crc (s : State) : (closeRequest s).crc = s.crc := rfl
@[simp] theorem closeRequest_hn (s : State) : (closeRequest s).hn = s.hn := rfl
@[simp] theorem closeRequest_hnv (s : State) : (closeRequest s).hnv = s.hnv := rfl
@[simp] theorem closeRequest_ne (s : State) : (closeRequest s).ne = s.ne := rfl
@[simp] theorem closeRequest_bo (s : State) : (closeRequest s).bo = s.bo := rfl
@[simp] theorem closeRequest_txt (s : State) : (closeRequest s).txt = s.txt := rfl
@[simp] theorem closeRequest_input (s : State) : (closeRequest s).input = s.input := rfl
@[simp] theorem closeRequest_cfg (s : State) : (closeRequest s).cfg = s.cfg := rfl

/-! ### `setCrc` -/

@[simp] theorem setCrc_ph (v : Half) (s : State) : (setCrc v s).ph = s.ph := rfl
@[simp] theorem setCrc_ec (v : Half) (s : State) : (setCrc v s).ec = s.ec := rfl
@[simp] theorem setCrc_crc (v : Half) (s : State) : (setCrc v s).crc = v := rfl
@[simp] theorem setCrc_hn (v : Half) (s : State) : (setCrc v s).hn = s.hn := rfl
@[simp] theorem setCrc_hnv (v : Half) (s : State) : (setCrc v s).hnv = s.hnv := rfl
@[simp] theorem setCrc_ne (v : Half) (s : State) : (setCrc v s).ne = s.ne := rfl
@[simp] theorem setCrc_bo (v : Half) (s : State) : (setCrc v s).bo = s.bo := rfl
@[simp] theorem setCrc_txt (v : Half) (s : State) : (setCrc v s).txt = s.txt := rfl
@[simp] theorem setCrc_input (v : Half) (s : State) : (setCrc v s).input = s.input := rfl
@[simp] theorem setCrc_cfg (v : Half) (s : State) : (setCrc v s).cfg = s.cfg := rfl

/-! ### `resetRegisters` -/

@[simp] theorem resetRegisters_ph (s : State) : (resetRegisters s).ph = .idle := rfl
@[simp] theorem resetRegisters_ec (s : State) : (resetRegisters s).ec = none := rfl
@[simp] theorem resetRegisters_crc (s : State) : (resetRegisters s).crc = 0xFFFF#16 := rfl
@[simp] theorem resetRegisters_hn (s : State) : (resetRegisters s).hn = 0x0#4 := rfl
@[simp] theorem resetRegisters_hnv (s : State) : (resetRegisters s).hnv = false := rfl
@[simp] theorem resetRegisters_ne (s : State) : (resetRegisters s).ne = false := rfl
@[simp] theorem resetRegisters_bo (s : State) : (resetRegisters s).bo = s.bo := rfl
@[simp] theorem resetRegisters_txt (s : State) : (resetRegisters s).txt = s.txt := rfl
@[simp] theorem resetRegisters_input (s : State) : (resetRegisters s).input = s.input := rfl
@[simp] theorem resetRegisters_cfg (s : State) : (resetRegisters s).cfg = s.cfg := rfl

/-! ### `withInput` -/

@[simp] theorem withInput_ph (rest : List HostEvent) (s : State) : (withInput rest s).ph = s.ph := rfl
@[simp] theorem withInput_ec (rest : List HostEvent) (s : State) : (withInput rest s).ec = s.ec := rfl
@[simp] theorem withInput_crc (rest : List HostEvent) (s : State) : (withInput rest s).crc = s.crc := rfl
@[simp] theorem withInput_hn (rest : List HostEvent) (s : State) : (withInput rest s).hn = s.hn := rfl
@[simp] theorem withInput_hnv (rest : List HostEvent) (s : State) : (withInput rest s).hnv = s.hnv := rfl
@[simp] theorem withInput_ne (rest : List HostEvent) (s : State) : (withInput rest s).ne = s.ne := rfl
@[simp] theorem withInput_bo (rest : List HostEvent) (s : State) : (withInput rest s).bo = s.bo := rfl
@[simp] theorem withInput_txt (rest : List HostEvent) (s : State) : (withInput rest s).txt = s.txt := rfl
@[simp] theorem withInput_input (rest : List HostEvent) (s : State) : (withInput rest s).input = rest := rfl
@[simp] theorem withInput_cfg (rest : List HostEvent) (s : State) : (withInput rest s).cfg = s.cfg := rfl

@[simp] theorem discard_eq (s : State) : discard s = s := rfl

end Sys2Proof.Machine
end

