-- ==== Sys2Proof/Laws/Ops.lean ====
section
/-! SUPPORT. One lemma per shared operation that says everything it does, so that proofs cite it and do not unfold the
operation. -/

namespace Sys2Proof.Machine

/-! ### `absorb` and `emitTail`, field by field -/

@[simp] theorem absorb_ph (b : Byte) (s : State) : (absorb b s).ph = s.ph := rfl
@[simp] theorem absorb_ec (b : Byte) (s : State) : (absorb b s).ec = s.ec := rfl
@[simp] theorem absorb_crc (b : Byte) (s : State) : (absorb b s).crc = crcByte s.crc b := rfl
@[simp] theorem absorb_hn (b : Byte) (s : State) : (absorb b s).hn = s.hn := rfl
@[simp] theorem absorb_hnv (b : Byte) (s : State) : (absorb b s).hnv = s.hnv := rfl
@[simp] theorem absorb_ne (b : Byte) (s : State) : (absorb b s).ne = true := rfl
@[simp] theorem absorb_bo (b : Byte) (s : State) : (absorb b s).bo = s.bo ++ [b] := rfl
@[simp] theorem absorb_txt (b : Byte) (s : State) : (absorb b s).txt = s.txt ++ byteText b s := rfl
@[simp] theorem absorb_input (b : Byte) (s : State) : (absorb b s).input = s.input := rfl
@[simp] theorem absorb_cfg (b : Byte) (s : State) : (absorb b s).cfg = s.cfg := rfl

@[simp] theorem emitTail_ph (s : State) : (emitTail s).ph = s.ph := rfl
@[simp] theorem emitTail_ec (s : State) : (emitTail s).ec = s.ec := rfl
@[simp] theorem emitTail_crc (s : State) : (emitTail s).crc = s.crc := rfl
@[simp] theorem emitTail_hn (s : State) : (emitTail s).hn = s.hn := rfl
@[simp] theorem emitTail_hnv (s : State) : (emitTail s).hnv = s.hnv := rfl
@[simp] theorem emitTail_ne (s : State) : (emitTail s).ne = s.ne := rfl
@[simp] theorem emitTail_bo (s : State) : (emitTail s).bo = s.bo ++ [lowByte s.crc] ++ [highByte s.crc] := rfl
@[simp] theorem emitTail_txt (s : State) : (emitTail s).txt = s.txt ++ tail s.crc := rfl
@[simp] theorem emitTail_input (s : State) : (emitTail s).input = s.input := rfl
@[simp] theorem emitTail_cfg (s : State) : (emitTail s).cfg = s.cfg := rfl

/-! ### The text of a byte -/

theorem byteText_first (b : Byte) (s : State) (h : s.ne = false) : byteText b s = token b := by
  simp [byteText, h]

theorem byteText_later (b : Byte) (s : State) (h : s.ne = true) : byteText b s = space :: token b := by
  simp [byteText, h]

/-- The token a completed group is emitted as is its two digits again, in upper case. -/
theorem token_joinNibbles (h l : Nibble) : token (joinNibbles h l) = [hexdigit h, hexdigit l] := by
  have hh : highNibble (joinNibbles h l) = h := by revert h l; decide
  have hl : lowNibble (joinNibbles h l) = l := by revert h l; decide
  simp [token, hh, hl]

/-! ### The gate of the commands other than `INIT` (R146) -/

@[simp] theorem whenRun_run (f : State → State) (s : State) (h : s.ph = .run) : whenRun f s = f s := by
  simp [whenRun, h]

@[simp] theorem whenRun_fail (f : State → State) (s : State) (h : s.ph = .fail) : whenRun f s = s := by
  simp [whenRun, h]

@[simp] theorem whenRun_idle (f : State → State) (s : State) (h : s.ph = .idle) :
    whenRun f s = raise .commandError s := by
  simp [whenRun, h]

@[simp] theorem whenRun_done (f : State → State) (s : State) (h : s.ph = .done) :
    whenRun f s = raise .commandError s := by
  simp [whenRun, h]

/-- Everything the gate can do. -/
theorem whenRun_cases (f : State → State) (s : State) :
    (s.ph = .run ∧ whenRun f s = f s) ∨ (s.ph = .fail ∧ whenRun f s = s) ∨
    ((s.ph = .idle ∨ s.ph = .done) ∧ whenRun f s = raise .commandError s) := by
  cases h : s.ph <;> simp [h]

/-! ### Reset inside a command -/

theorem cutShort_bo (m n : Nat) (s t : State) :
    (cutShort m n s t).bo = s.bo ++ (t.bo.drop s.bo.length).take m := rfl

theorem cutShort_txt (m n : Nat) (s t : State) :
    (cutShort m n s t).txt = s.txt ++ (t.txt.drop s.txt.length).take n := rfl

@[simp] theorem cutShort_registers (m n : Nat) (s t : State) :
    registers (cutShort m n s t) = (.idle, none, 0xFFFF#16, 0x0#4, false, false) := rfl

@[simp] theorem cutShort_input (m n : Nat) (s t : State) : (cutShort m n s t).input = s.input := rfl

@[simp] theorem cutShort_cfg (m n : Nat) (s t : State) : (cutShort m n s t).cfg = s.cfg := rfl

/-! ### The status vector -/

/-- `status` is a function of the six registers: the streams and the input do not show on it (R29). -/
theorem status_of_registers (s t : State) (h : registers s = registers t) : status s = status t := by
  simp only [registers, Prod.mk.injEq] at h
  obtain ⟨hp, he, hc, -, hv, hn⟩ := h
  simp only [status, errLine, doneLine, hp, he, hc, hv, hn]

/-! ### What the three gated commands can do -/

/-- Everything `BYTE` can do in `RUN`. -/
theorem byteBody_cases (d : Byte) (s : State) :
    (s.hnv = true ∧ byteBody d s = raise .commandError s) ∨ (s.hnv = false ∧ byteBody d s = absorb d s) := by
  cases h : s.hnv <;> simp [byteBody, h]

/-- Everything `CHAR` can do in `RUN`. -/
theorem charBody_cases (c : Byte) (s : State) :
    (classify s.cfg c = .ws ∧ charBody c s = s) ∨
    (classify s.cfg c = .other ∧ charBody c s = raise .parseError s) ∨
    (∃ v, classify s.cfg c = .hex v ∧ s.hnv = false ∧ charBody c s = holdDigit v s) ∨
    (∃ v, classify s.cfg c = .hex v ∧ s.hnv = true ∧
      charBody c s = absorb (joinNibbles s.hn v) (clearHnv s)) := by
  cases hc : classify s.cfg c <;> cases h : s.hnv <;> simp [charBody, digitBody, hc, h]

/-- Everything `END` can do in `RUN`. -/
theorem endBody_cases (s : State) :
    (s.hnv = true ∧ endBody s = raise .parseError s) ∨
    (s.hnv = false ∧ s.ne = false ∧ endBody s = raise .emptyInputError s) ∨
    (s.hnv = false ∧ s.ne = true ∧ endBody s = closeRequest (emitTail s)) := by
  cases h : s.hnv <;> cases h' : s.ne <;> simp [endBody, h, h']

end Sys2Proof.Machine
end

