-- ==== Sys2Proof/Laws/PerInstr.lean ====
section
/-! SUPPORT. Per-instruction lemmas about the encoding: family `EncodedWord`. -/

namespace Sys2Proof.Laws.EncodedWord

/-- The encoded word of a command has its reserved field clear (R63) and selects the command's row of the opcode table
(R61). -/
def Statement (i : Instr) : Prop :=
  reservedClear (encode i) = true ∧ rowSelected (opcodeRow i) (encode i) = true

theorem init : Statement .init := by unfold Statement; decide

theorem byte (d : Byte) : Statement (.byte d) := by unfold Statement; revert d; decide

theorem char (c : Byte) : Statement (.char c) := by unfold Statement; revert c; decide

theorem endRequest : Statement .endRequest := by unfold Statement; decide

end Sys2Proof.Laws.EncodedWord
end

