-- ==== Sys2Proof/Laws/Step.lean ====
section
/-! SUPPORT. What a step does with each event, said once, and how a run unrolls into steps. -/

namespace Sys2Proof.Machine

theorem step_waiting (s : State) (h : s.input = []) : step s = .next s := by
  simp [step, execNext, h]

theorem step_event (s : State) (e : HostEvent) (rest : List HostEvent) (h : s.input = e :: rest) :
    step s = execEvent e (withInput rest s) := by
  simp [step, execNext, h]

theorem execWord_legal (w : CmdWord) (i : Instr) (s : State) (h : decodeCw w = .legal i) :
    execWord w s = exec i s := by
  simp [execWord, h]

theorem execWord_illegal (w : CmdWord) (why : IllegalWord) (s : State) (h : decodeCw w = .illegal why) :
    execWord w s = execIllegal s := by
  simp [execWord, h]

/-- Everything a command can do: `INIT` opens a request; any other passes the gate. -/
theorem exec_cases (i : Instr) (s : State) :
    (i = .init ∧ exec i s = .next (openRequest s)) ∨
    (∃ d, i = .byte d ∧ exec i s = .next (whenRun (byteBody d) s)) ∨
    (∃ c, i = .char c ∧ exec i s = .next (whenRun (charBody c) s)) ∨
    (i = .endRequest ∧ exec i s = .next (whenRun endBody s)) := by
  cases i <;> simp [exec, execInit, execByte, execChar, execEnd]

/-- Everything a command word can do: `INIT`, one of the three gated commands, or `ILLEGAL`. -/
theorem execWord_cases (w : CmdWord) (s : State) :
    (decodeCw w = .legal .init ∧ execWord w s = .next (openRequest s)) ∨
    (∃ d, decodeCw w = .legal (.byte d) ∧ execWord w s = .next (whenRun (byteBody d) s)) ∨
    (∃ c, decodeCw w = .legal (.char c) ∧ execWord w s = .next (whenRun (charBody c) s)) ∨
    (decodeCw w = .legal .endRequest ∧ execWord w s = .next (whenRun endBody s)) ∨
    (∃ why, decodeCw w = .illegal why ∧ execWord w s = .next (whenRun (raise .commandError) s)) := by
  cases h : decodeCw w with
  | legal i =>
    cases i <;> simp [execWord, h, exec, execInit, execByte, execChar, execEnd]
  | illegal why => simp [execWord, h, execIllegal]

/-- The event is taken from the input by every command word. -/
theorem execWord_input (w : CmdWord) (s t : State) (h : execWord w s = .next t) : t.input = s.input := by
  rcases execWord_cases w s with ⟨-, e⟩ | ⟨d, -, e⟩ | ⟨c, -, e⟩ | ⟨-, e⟩ | ⟨why, -, e⟩ <;>
    rw [e] at h <;> obtain rfl := Host.Outcome.next.inj h
  · rfl
  · rcases whenRun_cases (byteBody d) s with ⟨-, e⟩ | ⟨-, e⟩ | ⟨-, e⟩ <;> rw [e]
    · rcases byteBody_cases d s with ⟨-, e⟩ | ⟨-, e⟩ <;> rw [e] <;> rfl
    · rfl
  · rcases whenRun_cases (charBody c) s with ⟨-, e⟩ | ⟨-, e⟩ | ⟨-, e⟩ <;> rw [e]
    · rcases charBody_cases c s with ⟨-, e⟩ | ⟨-, e⟩ | ⟨v, -, -, e⟩ | ⟨v, -, -, e⟩ <;> rw [e] <;> rfl
    · rfl
  · rcases whenRun_cases endBody s with ⟨-, e⟩ | ⟨-, e⟩ | ⟨-, e⟩ <;> rw [e]
    · rcases endBody_cases s with ⟨-, e⟩ | ⟨-, -, e⟩ | ⟨-, -, e⟩ <;> rw [e] <;> rfl
    · rfl
  · rcases whenRun_cases (raise .commandError) s with ⟨-, e⟩ | ⟨-, e⟩ | ⟨-, e⟩ <;> rw [e] <;> rfl

/-! ### Runs -/

/-- The run of the statements is the host interface's run. -/
theorem runSteps_eq_core_run (k : Nat) : ∀ s : State, runSteps k s = core.run k s := by
  induction k with
  | zero => intro s; rfl
  | succ k ih =>
    intro s
    have hc : core.step s = step s := rfl
    cases hs : step s with
    | next t => rw [hs] at hc; simp only [runSteps, hs, Host.Core.run, hc]; exact ih t
    | fault r => exact nomatch r
    | refused r => rw [hs] at hc; simp only [runSteps, hs, Host.Core.run, hc]; rfl

@[simp] theorem runSteps_zero (s : State) : runSteps 0 s = .next s := rfl

/-- A run of one step more begins with that step. -/
theorem runSteps_succ (k : Nat) (s t : State) (h : step s = .next t) : runSteps (k + 1) s = runSteps k t := by
  simp [runSteps, h]

/-- A run in two parts. -/
theorem runSteps_add (j k : Nat) : ∀ s t : State, runSteps j s = .next t → runSteps (j + k) s = runSteps k t := by
  induction j with
  | zero =>
    intro s t h
    obtain rfl := Host.Outcome.next.inj h
    simp
  | succ j ih =>
    intro s t h
    rw [Nat.succ_add]
    cases hs : step s with
    | next u => simp only [runSteps, hs] at h ⊢; exact ih u t h
    | fault r => exact nomatch r
    | refused r => simp [runSteps, hs] at h

end Sys2Proof.Machine
end

