-- ==== Sys2Proof/Laws/Request.lean ====
section
/-! SUPPORT. A run over presented words is a fold of their effects: the bridge from statements about runs to inductions
over lists of commands. -/

namespace Sys2Proof.Machine

/-- The state a command word leaves, as a plain function. -/
def wordEffect (w : CmdWord) (s : State) : State :=
  match decodeCw w with
  | .legal .init => openRequest s
  | .legal (.byte d) => whenRun (byteBody d) s
  | .legal (.char c) => whenRun (charBody c) s
  | .legal .endRequest => whenRun endBody s
  | .illegal _ => whenRun (raise .commandError) s

theorem execWord_eq_wordEffect (w : CmdWord) (s : State) : execWord w s = .next (wordEffect w s) := by
  rcases execWord_cases w s with ⟨h, e⟩ | ⟨d, h, e⟩ | ⟨c, h, e⟩ | ⟨h, e⟩ | ⟨why, h, e⟩ <;>
    simp [wordEffect, h, e]

/-- The input plays no part in the effect of a body that passes the gate. -/
theorem whenRun_withInput (f : State → State) (rest : List HostEvent) (s : State)
    (h : f (withInput rest s) = withInput rest (f s)) :
    whenRun f (withInput rest s) = withInput rest (whenRun f s) := by
  cases hp : s.ph <;> simp [whenRun, hp, h] <;> rfl

theorem byteBody_withInput (d : Byte) (rest : List HostEvent) (s : State) :
    byteBody d (withInput rest s) = withInput rest (byteBody d s) := by
  cases h : s.hnv <;> simp [byteBody, h] <;> rfl

theorem charBody_withInput (c : Byte) (rest : List HostEvent) (s : State) :
    charBody c (withInput rest s) = withInput rest (charBody c s) := by
  cases hc : classify s.cfg c <;> cases h : s.hnv <;> simp [charBody, digitBody, hc, h] <;> rfl

theorem endBody_withInput (rest : List HostEvent) (s : State) :
    endBody (withInput rest s) = withInput rest (endBody s) := by
  cases h : s.hnv <;> cases h' : s.ne <;> simp [endBody, h, h'] <;> rfl

/-- What the host does next plays no part in the effect of a word (R151). -/
theorem wordEffect_withInput (w : CmdWord) (rest : List HostEvent) (s : State) :
    wordEffect w (withInput rest s) = withInput rest (wordEffect w s) := by
  unfold wordEffect
  split
  · rfl
  · exact whenRun_withInput _ _ _ (byteBody_withInput _ _ _)
  · exact whenRun_withInput _ _ _ (charBody_withInput _ _ _)
  · exact whenRun_withInput _ _ _ (endBody_withInput _ _)
  · exact whenRun_withInput _ _ _ rfl

/-- A run over presented words: their effects one after another, and then the events that were left. -/
theorem runSteps_words (words : List CmdWord) (rest : List HostEvent) :
    ∀ s : State, runSteps words.length (withInput (words.map .command ++ rest) s) =
      .next (withInput rest (words.foldl (fun s w => wordEffect w s) s)) := by
  induction words with
  | nil => intro s; rfl
  | cons w words ih =>
    intro s
    have hstep : step (withInput ((w :: words).map .command ++ rest) s) =
        .next (withInput (words.map .command ++ rest) (wordEffect w s)) := by
      rw [step_event _ (.command w) (words.map .command ++ rest) rfl]
      show execWord w (withInput (words.map .command ++ rest) s) = _
      rw [execWord_eq_wordEffect, wordEffect_withInput]
    rw [List.length_cons, runSteps_succ _ _ _ hstep, ih]
    rfl

/-- The same for a list of commands, as the statements present them. -/
theorem runSteps_present (cmds : List Instr) (s : State) :
    runSteps cmds.length { s with input := present cmds } =
      .next (withInput [] (cmds.foldl (fun s i => wordEffect (encode i) s) s)) := by
  have h := runSteps_words (cmds.map encode) [] s
  simp only [List.length_map, List.map_map, List.append_nil, List.foldl_map] at h
  exact h

end Sys2Proof.Machine
end

