-- ==== Sys2Proof/Tests/Slice0.lean ====
section
/-! SUPPORT. Small tests against the spec's own vectors (`95_test_vectors.md`), the ill-formed terms each check refuses, and
for every statement with hypotheses a state and operands that meet them. -/

namespace Sys2Proof.Tests

open Sys2Proof.Machine

/-- The default block in a given register state, with nothing emitted and nothing presented. -/
def block (ph : Phase) (ec : Option Err) (crc : Half) (hn : Nibble) (hnv ne : Bool) : State :=
  { State.reset with ph := ph, ec := ec, crc := crc, hn := hn, hnv := hnv, ne := ne }

/-- The same with host events to come. -/
def withEvents (events : List HostEvent) (s : State) : State := { s with input := events }

/-- What a test looks at after one step: the registers in the order of R20, and the two histories. -/
structure Seen where
  ph : Phase
  ec : Option Err
  crc : Half
  hn : Nibble
  hnv : Bool
  ne : Bool
  bo : List Byte
  txt : List Byte
  deriving DecidableEq, Repr

/-- The same read off the outcome of a step. -/
def seen : Host.Outcome State Fault Refusal → Option Seen
  | .next t => some ⟨t.ph, t.ec, t.crc, t.hn, t.hnv, t.ne, t.bo, t.txt⟩
  | .fault _ => none
  | .refused _ => none

/-- One word from a register state. -/
def after (w : CmdWord) (s : State) := seen (step (withEvents [.command w] s))

/-! ### The checks refuse ill-formed terms -/

theorem test_word_reserved_init_refused : reservedClear 0x001#10 = false := by decide
theorem test_word_reserved_end_refused : reservedClear 0x3FF#10 = false := by decide
theorem test_word_operand_free : reservedClear 0x1FF#10 = true ∧ reservedClear 0x2FF#10 = true := by decide
theorem test_config_without_space_refused : Config.wellFormed { wsSet := [0x09#8] } = false := by decide
theorem test_config_with_digit_refused : Config.wellFormed { wsSet := [0x20#8, 0x66#8] } = false := by decide
theorem test_config_standard_accepted : Config.standard.wellFormed = true := by decide
theorem test_request_without_init_refused : requestWellFormed [.byte 0x01#8, .endRequest] = false := by decide
theorem test_request_without_end_refused : requestWellFormed [.init, .byte 0x01#8] = false := by decide
theorem test_request_after_end_refused : requestWellFormed [.init, .endRequest, .byte 0x01#8] = false := by decide
theorem test_request_second_init_refused : requestWellFormed [.init, .init, .endRequest] = false := by decide
theorem test_request_accepted : requestWellFormed (lineCommands [0x41#8, 0x42#8]) = true := by decide

/-! ### Decoding, each word written out bit by bit from R60 and R61 -/

theorem test_decode_init : decodeCw 0b0000000000#10 = .legal .init := by decide
theorem test_decode_byte_37 : decodeCw 0b0100110111#10 = .legal (.byte 0x37#8) := by decide
theorem test_decode_char_A : decodeCw 0b1001000001#10 = .legal (.char 0x41#8) := by decide
theorem test_decode_end : decodeCw 0b1100000000#10 = .legal .endRequest := by decide
theorem test_decode_illegal :
    decodeCw 0b0010000000#10 = .illegal .reservedInInit ∧ decodeCw 0b1100000001#10 = .illegal .reservedInEnd := by
  decide
theorem test_table_word : decodeTableWord 16 0x137 = some (.byte 0x37#8) ∧ decodeTableWord 16 0x0FF = none := by decide

/-! ### The four commands and `ILLEGAL` (section 5.1) -/

theorem test_init_recovers :
    after 0x000#10 (block .fail (some .parseError) 0x96FE#16 3#4 true true) =
      some ⟨.run, none, 0xFFFF#16, 0#4, false, false, [], []⟩ := by decide
theorem test_byte_second_has_space :
    after 0x103#10 (block .run none 0x96FE#16 0#4 false true) =
      some ⟨.run, none, 0x8157#16, 0#4, false, true, [0x03#8], [0x20#8, 0x30#8, 0x33#8]⟩ := by decide
theorem test_byte_inside_pair :
    after 0x137#10 (block .run none 0xFFFF#16 3#4 true false) =
      some ⟨.fail, some .commandError, 0xFFFF#16, 3#4, true, false, [], []⟩ := by decide
theorem test_char_second_digit :
    after 0x242#10 (block .run none 0xFFFF#16 10#4 true false) =
      some ⟨.run, none, 0xFFFE#16, 10#4, false, true, [0xAB#8], [0x41#8, 0x42#8]⟩ := by decide
theorem test_char_other :
    after 0x247#10 (block .run none 0x96FE#16 3#4 true true) =
      some ⟨.fail, some .parseError, 0x96FE#16, 3#4, true, true, [], []⟩ := by decide
theorem test_end_appends_low_byte_first :
    after 0x300#10 (block .run none 0x5BC0#16 0#4 false true) =
      some ⟨.done, none, 0x5BC0#16, 0#4, false, true, [0xC0#8, 0x5B#8],
        [0x20#8, 0x43#8, 0x30#8, 0x20#8, 0x35#8, 0x42#8]⟩ := by decide
theorem test_end_odd_before_empty :
    after 0x300#10 (block .run none 0xFFFF#16 10#4 true false) =
      some ⟨.fail, some .parseError, 0xFFFF#16, 10#4, true, false, [], []⟩ := by decide
theorem test_illegal_in_done :
    after 0x301#10 (block .done none 0x5BC0#16 0#4 false true) =
      some ⟨.fail, some .commandError, 0x5BC0#16, 0#4, false, true, [], []⟩ := by decide
theorem test_illegal_in_fail :
    after 0x3FF#10 (block .fail (some .emptyInputError) 0xFFFF#16 0#4 false false) =
      some ⟨.fail, some .emptyInputError, 0xFFFF#16, 0#4, false, false, [], []⟩ := by decide

/-! ### The first word after reset, and reset itself -/

theorem test_first_word_init :
    seen (step (State.reset.withFetchWord 16 0x000)) =
      some ⟨.run, none, 0xFFFF#16, 0#4, false, false, [], []⟩ := by decide
theorem test_first_word_char :
    seen (step (State.reset.withFetchWord 16 0x241)) =
      some ⟨.fail, some .commandError, 0xFFFF#16, 0#4, false, false, [], []⟩ := by decide
theorem test_reset_inside_end :
    seen (step (withEvents [.resetDuring 0x300#10 1 2] (block .run none 0x5BC0#16 0#4 false true))) =
      some ⟨.idle, none, 0xFFFF#16, 0#4, false, false, [0xC0#8], [0x20#8, 0x43#8]⟩ := by decide
theorem test_status_after_reset : status State.reset = 0x00FFFF#24 := by decide
theorem test_status_fields :
    status (block .fail (some .parseError) 0x96FE#16 3#4 true true) = 0xB796FE#24 ∧
    status (block .done none 0x5BC0#16 0#4 false true) = 0x625BC0#24 := by decide

/-! ### The functions (sections 2 to 4) -/

theorem test_shift1 : shift1 0x7FFF#16 = 0x9FFE#16 ∧ shift1 0x8000#16 = 0x4000#16 := by decide
theorem test_crc_byte : crcByte 0xFFFF#16 0x00#8 = 0x40BF#16 ∧ crcByte 0x0000#16 0x80#8 = 0xA001#16 := by decide
theorem test_compute : compute [0x01#8, 0x03#8, 0x00#8, 0x00#8, 0x00#8, 0x0A#8] = 0xCDC5#16 := by decide +kernel
theorem test_table_entry : tableEntry 0x1D#8 = 0x09C0#16 ∧ tableEntry 0xFF#8 = 0x4040#16 := by decide
theorem test_decode_text :
    decodeText Config.standard [0x41#8, 0x20#8, 0x62#8, 0x63#8, 0x09#8, 0x44#8] = some [0xAB#8, 0xCD#8] := by decide
theorem test_decode_text_fails :
    decodeText Config.standard [0x41#8, 0x42#8, 0x43#8] = none ∧ decodeText Config.standard [0x5A#8, 0x5A#8] = none := by
  decide
theorem test_encode_frame :
    encodeFrame [0x01#8, 0x02#8] 0x1234#16 =
      [0x30#8, 0x31#8, 0x20#8, 0x30#8, 0x32#8, 0x20#8, 0x33#8, 0x34#8, 0x20#8, 0x31#8, 0x32#8] := by decide

/-! ### The notation and the host -/

/-- `CHAR 'A' ;` and `.word 0x3FF` (R69). -/
theorem test_parse_line :
    parseLine [0x43#8, 0x48#8, 0x41#8, 0x52#8, 0x20#8, 0x27#8, 0x41#8, 0x27#8, 0x20#8, 0x3B#8] =
      some [.command (.char 0x41#8)] ∧
    parseLine [0x2E#8, 0x77#8, 0x6F#8, 0x72#8, 0x64#8, 0x20#8, 0x30#8, 0x78#8, 0x33#8, 0x46#8, 0x46#8] =
      some [.word 0x3FF#10] := by decide
/-- `exit` ends the session and `Exit` is forwarded (R187). -/
theorem test_shell :
    shellAction [0x65#8, 0x78#8, 0x69#8, 0x74#8] = .terminate ∧ shellAction [] = .ignore ∧
    shellAction [0x45#8, 0x78#8, 0x69#8, 0x74#8] = .forward (lineCommands [0x45#8, 0x78#8, 0x69#8, 0x74#8]) := by decide

/-! ### Witnesses: every statement with hypotheses, each clause of it -/

theorem witness_rows : rowSelected (opcodeRow (.byte 0x00#8)) 0x137#10 = true ∧
    rowSelected (opcodeRow (.byte 0x37#8)) 0x137#10 = true := by decide
theorem witness_step_runs :
    (withEvents [.command 0x300#10, .reset] State.reset).input = .command 0x300#10 :: [.reset] ∧
    decodeCw 0x300#10 = .legal .endRequest := by decide
theorem witness_illegal :
    (opField 0x001#10 = 0b00#2 ∧ dataField 0x001#10 ≠ 0x00#8) ∧ (opField 0x0FF#10 = 0b00#2 ∧ dataField 0x0FF#10 ≠ 0x00#8) ∧
    (opField 0x301#10 = 0b11#2 ∧ dataField 0x301#10 ≠ 0x00#8) ∧ (opField 0x3FF#10 = 0b11#2 ∧ dataField 0x3FF#10 ≠ 0x00#8) ∧
    (withEvents [.command 0x001#10] State.reset).input = .command 0x001#10 :: [] := by decide
theorem witness_waiting : State.reset.input = [] := by decide
theorem witness_reset_event : (withEvents [.reset] (block .run none 0x96FE#16 3#4 true true)).input = .reset :: [] := by
  decide
theorem witness_reset_during :
    (withEvents [.resetDuring 0x137#10 0 3] (block .run none 0xFFFF#16 0#4 false false)).input =
      .resetDuring 0x137#10 0 3 :: [] := by decide
/-- `RUN`, with a pair open and with none, with a byte absorbed and with none: the clauses of R89 and of R143. -/
theorem witness_run :
    (block .run none 0xFFFF#16 3#4 true false).ph = .run ∧ (block .run none 0xFFFF#16 3#4 true false).hnv = true ∧
    (block .run none 0xFFFF#16 0#4 false false).ph = .run ∧ (block .run none 0xFFFF#16 0#4 false false).ne = false ∧
    (block .run none 0x96FE#16 0#4 false true).ph = .run ∧ (block .run none 0x96FE#16 0#4 false true).ne = true := by
  decide
/-- The three phases outside `RUN` (R90, R109, R144). -/
theorem witness_outside_run :
    State.reset.ph ≠ .run ∧ State.reset.ph ≠ .fail ∧ (block .done none 0x5BC0#16 0#4 false true).ph ≠ .run ∧
    (block .fail (some .parseError) 0x96FE#16 3#4 true true).ph ≠ .run := by decide
/-- The classes at the ends of their ranges (R104): the clauses of R108. -/
theorem witness_classes :
    classify Config.standard 0x08#8 = .other ∧ classify Config.standard 0x09#8 = .ws ∧
    classify Config.standard 0x0D#8 = .ws ∧ classify Config.standard 0x0E#8 = .other ∧
    classify Config.standard 0x2F#8 = .other ∧ classify Config.standard 0x30#8 = .hex 0#4 ∧
    classify Config.standard 0x39#8 = .hex 9#4 ∧ classify Config.standard 0x3A#8 = .other ∧
    classify Config.standard 0x41#8 = .hex 10#4 ∧ classify Config.standard 0x46#8 = .hex 15#4 ∧
    classify Config.standard 0x47#8 = .other ∧ classify Config.standard 0x61#8 = .hex 10#4 ∧
    classify Config.standard 0x66#8 = .hex 15#4 ∧ classify Config.standard 0x67#8 = .other ∧
    classify Config.standard 0xFF#8 = .other := by decide
/-- Each command answers a next state (the frames' hypothesis), here from `RUN` with a byte absorbed. -/
theorem witness_frames (i : Instr) : ∃ t, exec i (block .run none 0x96FE#16 0#4 false true) = .next t := by
  cases i <;> exact ⟨_, rfl⟩
/-- The premises of the frames' clauses: a byte absorbed, a digit held, a group completed, a successful `END`, a discard. -/
theorem witness_frame_clauses :
    (block .run none 0x96FE#16 0#4 false true).ph = .run ∧ (block .run none 0x96FE#16 0#4 false true).hnv = false ∧
    (block .run none 0x96FE#16 3#4 true true).hnv = true ∧ classify State.reset.cfg 0x66#8 = .hex 15#4 ∧
    (block .fail (some .parseError) 0x96FE#16 3#4 true true).ph = .fail := by decide
theorem witness_later_word : (0x300#10 : CmdWord) ≠ 0x000#10 := by decide
/-- A step from a phase other than `FAIL`, for each of the three errors (R160). -/
theorem witness_errors :
    (∃ t, step (withEvents [.command 0x25A#10] (block .run none 0xFFFF#16 0#4 false false)) = .next t ∧
      t.ph = .fail ∧ t.ec = some .parseError) ∧
    (∃ t, step (withEvents [.command 0x300#10] (block .run none 0xFFFF#16 0#4 false false)) = .next t ∧
      t.ph = .fail ∧ t.ec = some .emptyInputError) ∧
    (∃ t, step (withEvents [.command 0x137#10] State.reset) = .next t ∧ t.ph = .fail ∧ t.ec = some .commandError) :=
  ⟨⟨_, rfl, by decide, by decide⟩, ⟨_, rfl, by decide, by decide⟩, ⟨_, rfl, by decide, by decide⟩⟩
theorem witness_fail_discards :
    (withEvents [.command 0x300#10] (block .fail (some .emptyInputError) 0xFFFF#16 0#4 false false)).ph = .fail ∧
    (0x300#10 : CmdWord) ≠ encode .init := by decide
/-- `INIT`, reset, and a reset inside a command each leave `FAIL` (R166). -/
theorem witness_leaves_fail :
    (∃ t, step (withEvents [.command 0x000#10] (block .fail (some .parseError) 0x96FE#16 3#4 true true)) = .next t ∧
      t.ph ≠ .fail) ∧
    (∃ t, step (withEvents [.reset] (block .fail (some .parseError) 0x96FE#16 3#4 true true)) = .next t ∧ t.ph ≠ .fail) ∧
    (∃ t, step (withEvents [.resetDuring 0x300#10 0 0] (block .fail (some .parseError) 0x96FE#16 3#4 true true)) =
      .next t ∧ t.ph ≠ .fail) :=
  ⟨⟨_, rfl, by decide⟩, ⟨_, rfl, by decide⟩, ⟨_, rfl, by decide⟩⟩
/-- A misplaced and a legal command in phases other than `FAIL` (R184). -/
theorem witness_legal_here :
    (block .run none 0xFFFF#16 3#4 true false).ph ≠ .fail ∧
    legalHere (.byte 0x37#8) (block .run none 0xFFFF#16 3#4 true false) = false ∧
    legalHere (.char 0x37#8) (block .run none 0xFFFF#16 3#4 true false) = true := by decide
theorem witness_finished :
    (block .done none 0x5BC0#16 0#4 false true).ph = .done ∧
    (block .fail (some .parseError) 0x96FE#16 3#4 true true).ph = .fail ∧ (0x137#10 : CmdWord) ≠ encode .init := by decide
/-- A consistent state that is not the reset state, and its step (R34). -/
theorem witness_consistent :
    Consistent (withEvents [.command 0x300#10] (block .run none 0x5BC0#16 0#4 false true)) ∧
    ∃ t, step (withEvents [.command 0x300#10] (block .run none 0x5BC0#16 0#4 false true)) = .next t := by
  refine ⟨⟨?_, ?_, ?_, ?_⟩, _, rfl⟩ <;> decide
/-- A state in `RUN` whose streams hold one byte of an open request, and its step. -/
theorem witness_streams :
    StreamsAgree { block .run none 0x807E#16 0#4 false true with
      bo := [0x12#8, 0x01#8], txt := [0x20#8, 0x30#8, 0x31#8], input := [.command 0x300#10] } ∧
    ∃ t, step { block .run none 0x807E#16 0#4 false true with
      bo := [0x12#8, 0x01#8], txt := [0x20#8, 0x30#8, 0x31#8], input := [.command 0x300#10] } = .next t := by
  refine ⟨⟨fun _ => ⟨[0x01#8], ⟨[0x12#8], rfl⟩, ⟨[0x20#8], by decide⟩, by decide, by decide⟩, fun h => ?_⟩, _, rfl⟩
  exact absurd h (by decide)
/-- A finished frame whose streams agree (the invariant's `DONE` clause). -/
theorem witness_streams_done :
    StreamsAgree { block .done none 0x807E#16 0#4 false true with
      bo := [0x01#8, 0x7E#8, 0x80#8]
      txt := [0x30#8, 0x31#8, 0x20#8, 0x37#8, 0x45#8, 0x20#8, 0x38#8, 0x30#8] } := by
  refine ⟨fun h => absurd h (by decide), fun _ => ⟨[0x01#8], by decide, ⟨[], by decide⟩, ⟨[], by decide⟩, by decide, ?_⟩⟩
  decide
theorem witness_any_step :
    (∃ t, step (withEvents [.command 0x137#10] (block .run none 0xFFFF#16 0#4 false false)) = .next t) ∧
    (withEvents [.command 0x137#10] State.reset).cfg.wellFormed = true := ⟨⟨_, rfl⟩, by decide⟩
/-- `CRC` and `NE` change at a `BYTE`, `HN` and `HNV` at a digit. -/
theorem witness_datapath :
    (∃ t, step (withEvents [.command 0x137#10] (block .run none 0xFFFF#16 0#4 false false)) = .next t ∧
      t.crc ≠ 0xFFFF#16 ∧ t.ne ≠ false) ∧
    (∃ t, step (withEvents [.command 0x233#10] (block .run none 0xFFFF#16 0#4 false false)) = .next t ∧
      t.hn ≠ 0#4 ∧ t.hnv ≠ false) := ⟨⟨_, rfl, by decide, by decide⟩, ⟨_, rfl, by decide, by decide⟩⟩
/-- A request that ends in a `CommandError` does hold a `BYTE` (R184 (c)). -/
theorem witness_request :
    requestWellFormed [.init, .char 0x41#8, .byte 0x01#8, .endRequest] = true ∧
    ∃ t, runSteps 4 (withEvents (present [.init, .char 0x41#8, .byte 0x01#8, .endRequest]) State.reset) = .next t ∧
      t.ec = some .commandError := ⟨by decide, _, rfl, by decide⟩
theorem witness_same_config : State.reset.cfg = (block .fail (some .parseError) 0x96FE#16 3#4 true true).cfg := by decide
theorem witness_raw_bytes : ([0x01#8] : ByteSeq) ≠ [] ∧ ([] : ByteSeq) = [] := by decide
/-- A text that decodes to bytes, one to none, and two that fail (R149, R150, R110). -/
theorem witness_texts :
    decodeText State.reset.cfg [0x61#8, 0x20#8, 0x38#8] = some ([] ++ [0xA8#8]) ∧
    decodeText State.reset.cfg [0x20#8] = some [] ∧ decodeText State.reset.cfg [0x41#8] = none ∧
    decodeText State.reset.cfg [0x31#8, 0x47#8] = none ∧ classify State.reset.cfg 0x47#8 = .other ∧
    clean State.reset.cfg [0x41#8] = [0x41#8] := by decide
theorem witness_shift_bits : (0x0001#16 : Half).getLsbD 0 = true ∧ (0xFFFE#16 : Half).getLsbD 0 = false := by decide
theorem witness_admissible :
    Config.standard.wellFormed = true ∧ 0x47#8 ∉ Config.standard.wsSet ∧ isHexDigitCode 0x47#8 = false := by decide
theorem witness_groups :
    decodeText Config.standard [0x41#8, 0x42#8] = some [0xAB#8] ∧ ([0xAB#8] : ByteSeq)[0]? = some 0xAB#8 ∧
    clean Config.standard [0x41#8, 0x42#8] = clean Config.standard [0x41#8, 0x20#8, 0x42#8] := by decide

end Sys2Proof.Tests
end

/-! SUPPORT. What one step can do, by the host's event, and that none of it writes the configuration (R5, R6, R29). -/

namespace Sys2Proof.Machine

/-! ### Everything a step can do -/

/-- Everything a step can do: wait, carry out a command word, reset, or reset inside a command (R43, R176, R181). -/
theorem step_cases {s t : State} (h : step s = .next t) :
    (s.input = [] ∧ t = s) ∨
    (∃ w rest, s.input = .command w :: rest ∧ t = wordEffect w (withInput rest s)) ∨
    (∃ rest, s.input = .reset :: rest ∧ t = resetRegisters (withInput rest s)) ∨
    (∃ w m n rest, s.input = .resetDuring w m n :: rest ∧
      t = cutShort m n (withInput rest s) (wordEffect w (withInput rest s))) := by
  cases hin : s.input with
  | nil =>
    rw [step_waiting s hin] at h
    exact .inl ⟨rfl, (Host.Outcome.next.inj h).symm⟩
  | cons e rest =>
    rw [step_event s e rest hin] at h
    cases e with
    | command w =>
      rw [execEvent, execWord_eq_wordEffect] at h
      exact .inr (.inl ⟨w, rest, rfl, (Host.Outcome.next.inj h).symm⟩)
    | reset => exact .inr (.inr (.inl ⟨rest, rfl, (Host.Outcome.next.inj h).symm⟩))
    | resetDuring w m n =>
      rw [execEvent, execWord_eq_wordEffect] at h
      exact .inr (.inr (.inr ⟨w, m, n, rest, rfl, (Host.Outcome.next.inj h).symm⟩))

/-! ### The configuration -/

/-- The gate writes no configuration, whatever it lets through. -/
theorem whenRun_cfg (f : State → State) (s : State) (hf : (f s).cfg = s.cfg) : (whenRun f s).cfg = s.cfg := by
  rcases whenRun_cases f s with ⟨-, e⟩ | ⟨-, e⟩ | ⟨-, e⟩ <;> rw [e]
  · exact hf
  · exact raise_cfg _ _

@[simp] theorem byteBody_cfg (d : Byte) (s : State) : (byteBody d s).cfg = s.cfg := by
  rcases byteBody_cases d s with ⟨-, e⟩ | ⟨-, e⟩ <;> simp [e]

@[simp] theorem charBody_cfg (c : Byte) (s : State) : (charBody c s).cfg = s.cfg := by
  rcases charBody_cases c s with ⟨-, e⟩ | ⟨-, e⟩ | ⟨v, -, -, e⟩ | ⟨v, -, -, e⟩ <;> simp [e]

@[simp] theorem endBody_cfg (s : State) : (endBody s).cfg = s.cfg := by
  rcases endBody_cases s with ⟨-, e⟩ | ⟨-, -, e⟩ | ⟨-, -, e⟩ <;> simp [e]

/-- No command word writes the configuration: not `INIT`, not a gated command, not an illegal word. -/
@[simp] theorem wordEffect_cfg (w : CmdWord) (s : State) : (wordEffect w s).cfg = s.cfg := by
  unfold wordEffect
  split
  · exact openRequest_cfg s
  · exact whenRun_cfg _ s (byteBody_cfg _ s)
  · exact whenRun_cfg _ s (charBody_cfg _ s)
  · exact whenRun_cfg _ s (endBody_cfg s)
  · exact whenRun_cfg _ s (raise_cfg _ s)

theorem step_cfg {s t : State} (h : step s = .next t) : t.cfg = s.cfg := by
  rcases step_cases h with ⟨-, rfl⟩ | ⟨w, rest, -, rfl⟩ | ⟨rest, -, rfl⟩ | ⟨w, m, n, rest, -, rfl⟩
  · rfl
  · rw [wordEffect_cfg, withInput_cfg]
  · rw [resetRegisters_cfg, withInput_cfg]
  · rw [cutShort_cfg, withInput_cfg]

/-- Settles O34: each of the four things a step can do leaves the configuration, and so its admissibility, as it was. -/
theorem configurationIsNeverWritten : Obligations.ConfigurationIsNeverWritten := by
  intro s t h
  have hcfg : t.cfg = s.cfg := step_cfg h
  exact ⟨hcfg, fun hwf => by rw [hcfg]; exact hwf⟩

end Sys2Proof.Machine

/-! SUPPORT. The fields of the status vector (R29), and that its two status lines are never up together (R34 (d)). -/

namespace Sys2Proof.Machine

theorem statusField_getLsbD {w : Nat} (pos : Nat) (v : BitVec w) (i : Nat) :
    (statusField pos v).getLsbD i = (decide (i < 24) && decide (pos ≤ i) && v.getLsbD (i - pos)) := by
  by_cases hi : i < 24
  · by_cases hp : i < pos
    · simp [statusField, hi, hp]
    · simp [statusField, hi, hp]
      omega
  · simp [statusField, hi]

/-- A field read where it stands. -/
theorem statusField_extract {w : Nat} (pos : Nat) (v : BitVec w) (h : pos + w ≤ 24) :
    (statusField pos v).extractLsb' pos w = v := by
  ext i hi
  have hpos : pos + i < 24 := by omega
  rw [BitVec.getElem_extractLsb', statusField_getLsbD]
  simp [hpos, hi]

/-- A field does not show on bits that are not its own. -/
theorem statusField_extract_apart {w : Nat} (pos : Nat) (v : BitVec w) (p n : Nat) (h : p + n ≤ pos ∨ pos + w ≤ p) :
    (statusField pos v).extractLsb' p n = 0#n := by
  ext i hi
  rw [BitVec.getElem_extractLsb', statusField_getLsbD]
  rcases h with h | h
  · simp [show ¬ pos ≤ p + i by omega]
  · simp [show w ≤ p + i - pos by omega]

theorem status_crc (s : State) : (status s).extractLsb' 0 16 = s.crc := by
  simp [status, BitVec.extractLsb'_or, statusField_extract, statusField_extract_apart]

theorem status_ph (s : State) : (status s).extractLsb' 16 2 = phaseCode s.ph := by
  simp [status, BitVec.extractLsb'_or, statusField_extract, statusField_extract_apart]

theorem status_ec (s : State) : (status s).extractLsb' 18 2 = ecCode s.ec := by
  simp [status, BitVec.extractLsb'_or, statusField_extract, statusField_extract_apart]

/-- A bit of `STATUS` is the field of width 1 that stands there. -/
theorem getLsbD_of_extract_one {v : StatusWord} {pos : Nat} {b : Bool} (h : v.extractLsb' pos 1 = BitVec.ofBool b) :
    v.getLsbD pos = b := by
  simpa using congrArg (BitVec.getLsbD · 0) h

theorem status_hnv (s : State) : (status s).getLsbD 20 = s.hnv :=
  getLsbD_of_extract_one (by simp [status, BitVec.extractLsb'_or, statusField_extract, statusField_extract_apart])

theorem status_ne (s : State) : (status s).getLsbD 21 = s.ne :=
  getLsbD_of_extract_one (by simp [status, BitVec.extractLsb'_or, statusField_extract, statusField_extract_apart])

theorem status_doneLine (s : State) : (status s).getLsbD 22 = doneLine s :=
  getLsbD_of_extract_one (by simp [status, BitVec.extractLsb'_or, statusField_extract, statusField_extract_apart])

theorem status_errLine (s : State) : (status s).getLsbD 23 = errLine s :=
  getLsbD_of_extract_one (by simp [status, BitVec.extractLsb'_or, statusField_extract, statusField_extract_apart])

theorem status_done_iff (s : State) : (status s).getLsbD 22 = true ↔ s.ph = .done := by
  rw [status_doneLine, doneLine, decide_eq_true_iff]

theorem status_err_iff (s : State) : (status s).getLsbD 23 = true ↔ s.ph = .fail := by
  rw [status_errLine, errLine, decide_eq_true_iff]

/-- The two status lines are never up together (R34 (d)). -/
theorem status_lines_exclusive (s : State) : ¬ ((status s).getLsbD 22 = true ∧ (status s).getLsbD 23 = true) := by
  rintro ⟨hdone, herr⟩
  rw [status_done_iff] at hdone
  rw [status_err_iff, hdone] at herr
  exact Phase.noConfusion herr

/-- Settles O56: each field is read back from where `STATUS` places it. -/
theorem statusShowsTheRegisters : Obligations.StatusShowsTheRegisters := fun s =>
  ⟨status_crc s, status_ph s, status_ec s, status_hnv s, status_ne s, status_done_iff s, status_err_iff s⟩

end Sys2Proof.Machine

/-! SUPPORT. What a command word can do to the state, named case by case, and what every step therefore keeps: the
invariants of the registers (R34), the streams (R29, R33, R41, R42), and the datapath registers but for their own events
(R21, R22, R25, R26). -/

namespace Sys2Proof.Machine

/-! ### The word of a decoded command -/

/-- A word is its two fields put together (R60). -/
theorem opField_append_dataField (w : CmdWord) : (opField w ++ dataField w : BitVec (2 + 8)) = w := by
  ext i hi
  simp only [opField, dataField, BitVec.getElem_append, BitVec.getElem_extractLsb']
  split
  · simp [BitVec.getLsbD_eq_getElem, hi]
  · have hsum : 8 + (i - 8) = i := by omega
    simp [hsum, BitVec.getLsbD_eq_getElem, hi]

/-- The decoder answers a command for its own word alone (R61, R62). -/
theorem eq_encode_of_decodeCw {w : CmdWord} {i : Instr} (h : decodeCw w = .legal i) : w = encode i := by
  rw [← opField_append_dataField w]
  unfold decodeCw at h
  split_ifs at h with h0 hd h1 h2 hd <;> obtain rfl := Decoded.legal.inj h
  · rw [h0, hd]; rfl
  · rw [h1]; rfl
  · rw [h2]; rfl
  · have h3 : opField w = 0b11#2 := by bv_omega
    rw [h3, hd]; rfl

/-! ### Everything a command word can do -/

/-- What the word `w` can make of the state `s`: one case per way the six registers and the streams are written. -/
inductive WordMove (w : CmdWord) (s : State) : State → Prop where
  /-- `INIT` (R141). -/
  | opens (hw : decodeCw w = .legal .init) : WordMove w s (openRequest s)
  /-- A discard in `FAIL` (R165), or whitespace in `RUN` (R108). -/
  | stays (hp : s.ph = .fail ∨ s.ph = .run) : WordMove w s s
  /-- Error entry, never from `FAIL` (R164). -/
  | raises (e : Err) (hp : s.ph ≠ .fail) : WordMove w s (raise e s)
  /-- A raw byte with no pair open (R89). -/
  | absorbs (d : Byte) (hw : decodeCw w = .legal (.byte d)) (hp : s.ph = .run) (hv : s.hnv = false) :
      WordMove w s (absorb d s)
  /-- The first digit of a group (R108). -/
  | holds (c : Byte) (v : Nibble) (hw : decodeCw w = .legal (.char c)) (hc : classify s.cfg c = .hex v)
      (hp : s.ph = .run) (hv : s.hnv = false) : WordMove w s (holdDigit v s)
  /-- The second digit of a group (R108). -/
  | completes (c : Byte) (v : Nibble) (hw : decodeCw w = .legal (.char c)) (hc : classify s.cfg c = .hex v)
      (hp : s.ph = .run) (hv : s.hnv = true) : WordMove w s (absorb (joinNibbles s.hn v) (clearHnv s))
  /-- `END` with at least one byte absorbed and no pair open (R143). -/
  | closes (hw : decodeCw w = .legal .endRequest) (hp : s.ph = .run) (hv : s.hnv = false) (hn : s.ne = true) :
      WordMove w s (closeRequest (emitTail s))

/-- What passes the gate moves as its body does in `RUN` (R146). -/
theorem WordMove.of_whenRun {w : CmdWord} {f : State → State} {s : State} (hf : s.ph = .run → WordMove w s (f s)) :
    WordMove w s (whenRun f s) := by
  rcases whenRun_cases f s with ⟨hp, e⟩ | ⟨hp, e⟩ | ⟨hp, e⟩ <;> rw [e]
  · exact hf hp
  · exact .stays (.inl hp)
  · exact .raises _ (by rcases hp with hp | hp <;> simp [hp])

theorem wordMove_wordEffect (w : CmdWord) (s : State) : WordMove w s (wordEffect w s) := by
  cases hw : decodeCw w with
  | illegal why =>
    simp only [wordEffect, hw]
    exact .of_whenRun fun hp => .raises _ (by simp [hp])
  | legal i =>
    cases i <;> simp only [wordEffect, hw]
    case init => exact .opens hw
    case byte d =>
      refine .of_whenRun fun hp => ?_
      rcases byteBody_cases d s with ⟨hv, e⟩ | ⟨hv, e⟩ <;> rw [e]
      · exact .raises _ (by simp [hp])
      · exact .absorbs d hw hp hv
    case char c =>
      refine .of_whenRun fun hp => ?_
      rcases charBody_cases c s with ⟨hc, e⟩ | ⟨hc, e⟩ | ⟨v, hc, hv, e⟩ | ⟨v, hc, hv, e⟩ <;> rw [e]
      · exact .stays (.inr hp)
      · exact .raises _ (by simp [hp])
      · exact .holds c v hw hc hp hv
      · exact .completes c v hw hc hp hv
    case endRequest =>
      refine .of_whenRun fun hp => ?_
      rcases endBody_cases s with ⟨hv, e⟩ | ⟨hv, hn, e⟩ | ⟨hv, hn, e⟩ <;> rw [e]
      · exact .raises _ (by simp [hp])
      · exact .raises _ (by simp [hp])
      · exact .closes hw hp hv hn

/-- A predicate on states is kept by every step if taking an event keeps it, every command word keeps it, and it holds
wherever the registers have their reset values. -/
theorem step_keeps {P : State → Prop} (htake : ∀ s rest, P s → P (withInput rest s))
    (hword : ∀ w s t, WordMove w s t → P s → P t) (hreset : ∀ s, registers s = registers State.reset → P s)
    {s t : State} (hs : P s) (h : step s = .next t) : P t := by
  rcases step_cases h with ⟨-, rfl⟩ | ⟨w, rest, -, rfl⟩ | ⟨rest, -, rfl⟩ | ⟨w, m, n, rest, -, rfl⟩
  · exact hs
  · exact hword w _ _ (wordMove_wordEffect w _) (htake s rest hs)
  · exact hreset _ rfl
  · exact hreset _ rfl

/-! ### The invariants of the registers -/

theorem consistent_of_registers_reset (s : State) (h : registers s = registers State.reset) : Consistent s := by
  have hreg := h
  simp only [registers, State.reset, Prod.mk.injEq] at hreg
  obtain ⟨hp, he, -⟩ := hreg
  exact ⟨by simp [hp, he], fun _ => h, by simp [hp], status_lines_exclusive s⟩

theorem consistent_of_run {s : State} (hp : s.ph = .run) (he : s.ec = none) : Consistent s :=
  ⟨by simp [hp, he], by simp [hp], by simp [hp], status_lines_exclusive s⟩

theorem consistent_of_fail {s : State} (hp : s.ph = .fail) (he : s.ec ≠ none) : Consistent s :=
  ⟨by simp [hp, he], by simp [hp], by simp [hp], status_lines_exclusive s⟩

theorem consistent_of_done {s : State} (hp : s.ph = .done) (hv : s.hnv = false) (hn : s.ne = true)
    (he : s.ec = none) : Consistent s :=
  ⟨by simp [hp, he], by simp [hp], fun _ => ⟨hv, hn, he⟩, status_lines_exclusive s⟩

theorem Consistent.ec_of_run {s : State} (hs : Consistent s) (hp : s.ph = .run) : s.ec = none := by
  obtain ⟨hec, -⟩ := hs
  by_contra he
  exact Phase.noConfusion (hp.symm.trans (hec.mp he))

theorem WordMove.consistent {w : CmdWord} {s t : State} (h : WordMove w s t) (hs : Consistent s) : Consistent t := by
  cases h with
  | opens => exact consistent_of_run rfl rfl
  | stays => exact hs
  | raises e => exact consistent_of_fail rfl (Option.some_ne_none e)
  | absorbs d _ hp => exact consistent_of_run hp (hs.ec_of_run hp)
  | holds c v _ _ hp => exact consistent_of_run hp (hs.ec_of_run hp)
  | completes c v _ _ hp => exact consistent_of_run hp (hs.ec_of_run hp)
  | closes _ hp hv hn => exact consistent_of_done rfl hv hn (hs.ec_of_run hp)

/-- Settles O29: `RUN` is entered and kept with `EC = 0`, `FAIL` is entered with an error, `DONE` from `RUN` with `HNV = 0`
and `NE = 1`, and `IDLE` by reset alone. -/
theorem everyStepKeepsTheRegistersConsistent : Obligations.EveryStepKeepsTheRegistersConsistent := fun _ _ =>
  step_keeps (fun _ _ hs => hs) (fun _ _ _ => WordMove.consistent) consistent_of_registers_reset

/-- Settles O30: the registers have their reset values. -/
theorem resetStateIsConsistent : Obligations.ResetStateIsConsistent :=
  consistent_of_registers_reset State.reset rfl

/-! ### The streams and the registers -/

theorem endsWith_nil (items : List Byte) : EndsWith items [] := ⟨items, (List.append_nil items).symm⟩

theorem EndsWith.append {items last : List Byte} (h : EndsWith items last) (more : List Byte) :
    EndsWith (items ++ more) (last ++ more) := by
  obtain ⟨earlier, rfl⟩ := h
  exact ⟨earlier, List.append_assoc _ _ _⟩

theorem compute_append_singleton (bytes : ByteSeq) (b : Byte) :
    compute (bytes ++ [b]) = crcByte (compute bytes) b := by
  simp [compute]

/-- The text grows by a separator and a token, the separator before every token but the first (R123). -/
theorem encodeText_append_singleton (bytes : ByteSeq) (b : Byte) :
    encodeText (bytes ++ [b]) = encodeText bytes ++ ((bif !bytes.isEmpty then [space] else []) ++ token b) := by
  induction bytes with
  | nil => rfl
  | cons a rest ih =>
    cases rest with
    | nil => rfl
    | cons a' rest =>
      simp only [List.cons_append, encodeText_cons_cons] at ih ⊢
      rw [ih]
      simp

theorem streamsAgree_of_not_run_not_done {s : State} (hrun : s.ph ≠ .run) (hdone : s.ph ≠ .done) : StreamsAgree s :=
  ⟨fun hp => absurd hp hrun, fun hp => absurd hp hdone⟩

theorem streamsAgree_openRequest (s : State) : StreamsAgree (openRequest s) :=
  ⟨fun _ => ⟨[], endsWith_nil _, endsWith_nil _, rfl, rfl⟩, fun hp => Phase.noConfusion hp⟩

/-- An absorbed byte extends the open request's Byte Sequence by itself (R126, R129). -/
theorem StreamsAgree.after_absorb {s : State} (hs : StreamsAgree s) (hp : s.ph = .run) (b : Byte) :
    StreamsAgree (absorb b s) := by
  obtain ⟨hrun, -⟩ := hs
  obtain ⟨bytes, hbo, htxt, hcrc, hne⟩ := hrun hp
  have htext : encodeText (bytes ++ [b]) = encodeText bytes ++ byteText b s := by
    rw [encodeText_append_singleton, byteText, hne]
  refine ⟨fun _ => ⟨bytes ++ [b], hbo.append [b], ?_, ?_, by simp⟩, fun hd => absurd (hp.symm.trans hd) (by decide)⟩
  · rw [htext]; exact htxt.append _
  · rw [absorb_crc, hcrc, compute_append_singleton]

/-- `END` appends the Checksum of the open request's Byte Sequence to both streams (R127, R143). -/
theorem StreamsAgree.after_close {s : State} (hs : StreamsAgree s) (hp : s.ph = .run) (hn : s.ne = true) :
    StreamsAgree (closeRequest (emitTail s)) := by
  obtain ⟨hrun, -⟩ := hs
  obtain ⟨bytes, hbo, htxt, hcrc, hne⟩ := hrun hp
  refine ⟨fun hr => Phase.noConfusion hr, fun _ => ⟨bytes, ?_, ?_, ?_, hcrc, hn⟩⟩
  · rintro rfl
    simp [hn] at hne
  · simpa [hcrc] using hbo.append [lowByte s.crc, highByte s.crc]
  · simpa [hcrc, encodeFrame] using htxt.append (tail s.crc)

theorem WordMove.streamsAgree {w : CmdWord} {s t : State} (h : WordMove w s t) (hs : StreamsAgree s) :
    StreamsAgree t := by
  cases h with
  | opens => exact streamsAgree_openRequest s
  | stays => exact hs
  | raises e => exact streamsAgree_of_not_run_not_done (by simp) (by simp)
  | absorbs d _ hp => exact hs.after_absorb hp d
  | holds c v => exact hs
  | completes c v _ _ hp => exact StreamsAgree.after_absorb (s := clearHnv s) hs hp _
  | closes _ hp _ hn => exact hs.after_close hp hn

theorem streamsAgree_of_registers_reset (s : State) (h : registers s = registers State.reset) : StreamsAgree s := by
  have hp : s.ph = .idle := congrArg Prod.fst h
  exact streamsAgree_of_not_run_not_done (by simp [hp]) (by simp [hp])

/-- Settles O31: `INIT` opens the empty Byte Sequence, an absorbed byte extends it on both streams and in `CRC`, and `END`
appends its Checksum; nothing else leads to `RUN` or `DONE`. -/
theorem everyStepKeepsTheStreamsInAgreement : Obligations.EveryStepKeepsTheStreamsInAgreement := fun _ _ =>
  step_keeps (fun _ _ hs => hs) (fun _ _ _ => WordMove.streamsAgree) streamsAgree_of_registers_reset

/-- Settles O32: reset leads to `IDLE`, where no request is open or finished. -/
theorem resetStateHasStreamsInAgreement : Obligations.ResetStateHasStreamsInAgreement :=
  streamsAgree_of_registers_reset State.reset rfl

/-! ### Items already emitted -/

/-- A command word only appends to the streams. -/
theorem WordMove.emits {w : CmdWord} {s t : State} (h : WordMove w s t) :
    ∃ bo txt, t.bo = s.bo ++ bo ∧ t.txt = s.txt ++ txt := by
  cases h with
  | opens | stays | raises | holds => exact ⟨[], [], by simp, by simp⟩
  | absorbs d => exact ⟨[d], byteText d s, rfl, rfl⟩
  | completes c v => exact ⟨[joinNibbles s.hn v], byteText (joinNibbles s.hn v) s, rfl, rfl⟩
  | closes => exact ⟨[lowByte s.crc, highByte s.crc], tail s.crc, by simp, by simp⟩

/-- Settles O33: a command word only appends, a reset emits nothing, and a reset inside a command keeps what stood before
the command and appends a first part of its items. -/
theorem emittedItemsAreNeverTakenBack : Obligations.EmittedItemsAreNeverTakenBack := by
  intro s t h
  rcases step_cases h with ⟨-, rfl⟩ | ⟨w, rest, -, rfl⟩ | ⟨rest, -, rfl⟩ | ⟨w, m, n, rest, -, rfl⟩
  · exact ⟨[], [], by simp, by simp⟩
  · exact (wordMove_wordEffect w (withInput rest s)).emits
  · exact ⟨[], [], by simp, by simp⟩
  · exact ⟨_, _, cutShort_bo _ _ _ _, cutShort_txt _ _ _ _⟩

/-! ### The events of the datapath registers -/

/-- `CRC` and `NE` change at `INIT` and at an absorbed byte alone (R21, R26). -/
theorem WordMove.crc_ne_change {w : CmdWord} {s t : State} (h : WordMove w s t) (hinit : decodeCw w ≠ .legal .init)
    (hchange : t.crc ≠ s.crc ∨ t.ne ≠ s.ne) :
    s.ph = .run ∧ ∃ b, t.bo = s.bo ++ [b] ∧ t.crc = crcByte s.crc b ∧ t.ne = true := by
  cases h with
  | opens hw => exact absurd hw hinit
  | stays | raises | holds | closes => simp at hchange
  | absorbs d _ hp => exact ⟨hp, d, rfl, rfl, rfl⟩
  | completes c v _ _ hp => exact ⟨hp, _, rfl, rfl, rfl⟩

/-- `HN` and `HNV` change at `INIT` and at a digit in `RUN` alone (R22, R25). -/
theorem WordMove.hn_hnv_change {w : CmdWord} {s t : State} (h : WordMove w s t) (hinit : decodeCw w ≠ .legal .init)
    (hchange : t.hn ≠ s.hn ∨ t.hnv ≠ s.hnv) :
    s.ph = .run ∧ t.hnv = !s.hnv ∧ ∃ c v, decodeCw w = .legal (.char c) ∧ classify s.cfg c = .hex v := by
  cases h with
  | opens hw => exact absurd hw hinit
  | stays | raises | absorbs | closes => simp at hchange
  | holds c v hw hc hp hv => exact ⟨hp, by simp [hv], c, v, hw, hc⟩
  | completes c v hw hc hp hv => exact ⟨hp, by simp [hv], c, v, hw, hc⟩

/-- Settles O35: of the moves of a word that is not `INIT`, only absorbing a byte writes `CRC` and `NE`, and only a digit
writes `HN` and `HNV`. -/
theorem datapathRegistersChangeOnlyByTheirEvents : Obligations.DatapathRegistersChangeOnlyByTheirEvents := by
  intro s t e rest hin h
  rcases step_cases h with ⟨hin', -⟩ | ⟨w, rest', hin', rfl⟩ | ⟨rest', hin', -⟩ | ⟨w, m, n, rest', hin', -⟩ <;>
    rw [hin] at hin'
  · exact absurd hin' (List.cons_ne_nil e rest)
  · obtain ⟨rfl, rfl⟩ := List.cons.inj hin'
    by_cases hinit : decodeCw w = .legal .init
    · exact .inl (congrArg HostEvent.command (eq_encode_of_decodeCw hinit))
    · have hmove := wordMove_wordEffect w (withInput rest s)
      refine .inr (.inr (.inr ⟨hmove.crc_ne_change hinit, fun hchange => ?_⟩))
      obtain ⟨hp, hv, c, v, hw, hc⟩ := hmove.hn_hnv_change hinit hchange
      exact ⟨hp, hv, c, v, congrArg HostEvent.command (eq_encode_of_decodeCw hw), hc⟩
  · exact .inr (.inl (List.cons.inj hin').1)
  · exact .inr (.inr (.inl ⟨w, m, n, (List.cons.inj hin').1⟩))

/-! ### Reset -/

/-- Reset shows `0x00FFFF` on `STATUS` (R32), whatever the streams hold. -/
theorem status_of_registers_reset (s : State) (h : registers s = registers State.reset) : status s = 0x00FFFF#24 := by
  rw [status_of_registers s State.reset h]
  decide

/-- Settles O8: the step is the reset of the registers alone. -/
theorem resetEventRestoresTheRegisters : Obligations.ResetEventRestoresTheRegisters := by
  intro s rest hin
  have hstep : step s = .next (resetRegisters (withInput rest s)) := step_event s .reset rest hin
  exact ⟨_, hstep, rfl, status_of_registers_reset _ rfl, rfl, rfl, rfl, rfl⟩

/-- Settles O10, each field by its value in the reset state. -/
theorem resetStateHoldsTheResetValues : Obligations.ResetStateHoldsTheResetValues :=
  ⟨rfl, rfl, rfl, rfl, rfl, rfl, status_of_registers_reset State.reset rfl, rfl, rfl⟩

end Sys2Proof.Machine

/-! SUPPORT. The step as it runs a command word that decodes (R43, R146). -/

namespace Sys2Proof.Machine

/-- With the word of a command at the head of `CMD`, a step is that command in the state from which the word is taken. -/
theorem step_command_legal (s : State) (w : CmdWord) (rest : List HostEvent) (i : Instr)
    (hin : s.input = .command w :: rest) (hw : decodeCw w = .legal i) : step s = exec i (withInput rest s) :=
  calc step s = execEvent (.command w) (withInput rest s) := step_event s (.command w) rest hin
    _ = execWord w (withInput rest s) := rfl
    _ = exec i (withInput rest s) := execWord_legal w i (withInput rest s) hw

/-- Settles O5: the step takes the event, an event that is a word is that word's execution, and a word that decodes runs
its command. -/
theorem stepRunsTheDecodedCommand : Obligations.StepRunsTheDecodedCommand := step_command_legal

end Sys2Proof.Machine

/-! SUPPORT. The command word as its two fields (R60): the encoder writes them, the opcode table masks them, and the
decoder reads them; so the three agree on every word (R61, R62), and each answer has its number of words (R63). -/

namespace Sys2Proof.Machine

/-! ### The fields of an encoded command -/

/-- The `op` field of a command's row in the table of R61. -/
def opcode : Instr → BitVec 2
  | .init => 0b00#2
  | .byte _ => 0b01#2
  | .char _ => 0b10#2
  | .endRequest => 0b11#2

/-- The `data` field of a command's word: its operand, or the zero its reserved field must hold (R61, R63). -/
def operandField : Instr → Byte
  | .init | .endRequest => 0x00#8
  | .byte d => d
  | .char c => c

theorem encode_eq_append (i : Instr) : encode i = (opcode i ++ operandField i : BitVec (2 + 8)) := by
  cases i <;> rfl

theorem opField_append (op : BitVec 2) (d : Byte) : opField (op ++ d : BitVec (2 + 8)) = op :=
  BitVec.extractLsb'_append_eq_left

theorem dataField_append (op : BitVec 2) (d : Byte) : dataField (op ++ d : BitVec (2 + 8)) = d :=
  BitVec.extractLsb'_append_eq_right

@[simp] theorem opField_encode (i : Instr) : opField (encode i) = opcode i := by
  rw [encode_eq_append, opField_append]

@[simp] theorem dataField_encode (i : Instr) : dataField (encode i) = operandField i := by
  rw [encode_eq_append, dataField_append]

/-- A word is told by its two fields (R60). -/
theorem eq_append_iff (w : CmdWord) (op : BitVec 2) (d : Byte) :
    w = (op ++ d : BitVec (2 + 8)) ↔ opField w = op ∧ dataField w = d := by
  constructor
  · rintro rfl
    exact ⟨opField_append op d, dataField_append op d⟩
  · rintro ⟨rfl, rfl⟩
    exact (opField_append_dataField w).symm

/-! ### The decoder against the encoder -/

theorem decodeCw_encode (i : Instr) : decodeCw (encode i) = .legal i := by
  cases i <;> simp [decodeCw, opcode, operandField]

theorem decodeCw_eq_legal_iff (w : CmdWord) (i : Instr) : decodeCw w = .legal i ↔ w = encode i := by
  constructor
  · exact eq_encode_of_decodeCw
  · rintro rfl
    exact decodeCw_encode i

/-- Settles O4: the decoder answers a command for that command's own word alone, and on it does answer it. -/
theorem decodeAnswersExactlyTheEncodedWord : Obligations.DecodeAnswersExactlyTheEncodedWord :=
  decodeCw_eq_legal_iff

/-- The decoder reads the command off the two fields of the word (R60, R62). -/
theorem decodeCw_eq_legal_iff_fields (w : CmdWord) (i : Instr) :
    decodeCw w = .legal i ↔ opField w = opcode i ∧ dataField w = operandField i := by
  rw [decodeCw_eq_legal_iff, encode_eq_append, eq_append_iff]

theorem encode_injective : Function.Injective encode := by
  intro i j h
  have hij : Decoded.legal i = .legal j := by rw [← decodeCw_encode i, h, decodeCw_encode j]
  exact Decoded.legal.inj hij

/-! ### The decoder against the opcode table -/

/-- The bits of the `data` field that a row of the table fixes: all of them where it is reserved, none where it is the
operand (R61). -/
def reservedMask (op : BitVec 2) : Byte := if op = 0b00#2 ∨ op = 0b11#2 then 0xFF#8 else 0x00#8

/-- The row of the table for a value of `op`: all of `op` is fixed, and a reserved `data` field is zero (R61). -/
def rowOfOp (op : BitVec 2) : OpcodeRow :=
  { pattern := (op ++ 0x00#8 : BitVec (2 + 8)), mask := (0b11#2 ++ reservedMask op : BitVec (2 + 8)) }

theorem opcodeRow_eq_rowOfOp (i : Instr) : opcodeRow i = rowOfOp (opcode i) := by
  cases i <;> simp [opcodeRow, rowOfOp, reservedMask, opcode]

/-- A row is selected by its own `op`, with the reserved bits zero (R61). -/
theorem rowSelected_rowOfOp (op : BitVec 2) (w : CmdWord) :
    rowSelected (rowOfOp op) w = true ↔ opField w = op ∧ dataField w &&& reservedMask op = 0x00#8 := by
  have hmask : w &&& (rowOfOp op).mask =
      (opField w ++ (dataField w &&& reservedMask op) : BitVec (2 + 8)) :=
    calc w &&& (rowOfOp op).mask
        = (opField w ++ dataField w : BitVec (2 + 8)) &&& (0b11#2 ++ reservedMask op : BitVec (2 + 8)) := by
          rw [opField_append_dataField]; rfl
      _ = ((opField w &&& BitVec.allOnes 2) ++ (dataField w &&& reservedMask op) : BitVec (2 + 8)) :=
          BitVec.and_append
      _ = (opField w ++ (dataField w &&& reservedMask op) : BitVec (2 + 8)) := by rw [BitVec.and_allOnes]
  rw [rowSelected, decide_eq_true_iff, hmask]
  exact (eq_append_iff _ op 0x00#8).trans (by rw [opField_append, dataField_append])

theorem rowSelected_opcodeRow (i : Instr) (w : CmdWord) :
    rowSelected (opcodeRow i) w = true ↔
      opField w = opcode i ∧ dataField w &&& reservedMask (opcode i) = 0x00#8 := by
  rw [opcodeRow_eq_rowOfOp, rowSelected_rowOfOp]

/-- A command without operand: its row fixes all ten bits, as its word does. -/
theorem rowSelected_iff_of_reserved {i : Instr} (hmask : reservedMask (opcode i) = BitVec.allOnes 8)
    (hdata : operandField i = 0x00#8) (w : CmdWord) : rowSelected (opcodeRow i) w = true ↔ decodeCw w = .legal i := by
  rw [rowSelected_opcodeRow, decodeCw_eq_legal_iff_fields, hmask, BitVec.and_allOnes, hdata]

/-- A command with an operand: its row leaves the `data` field free, and the decoder takes the operand from there. -/
theorem rowSelected_iff_of_operand {i j : Instr} {w : CmdWord} (hmask : reservedMask (opcode i) = 0x00#8)
    (hop : opcode i = opcode j) (hdata : operandField j = dataField w) :
    rowSelected (opcodeRow i) w = true ↔ decodeCw w = .legal j := by
  rw [rowSelected_opcodeRow, decodeCw_eq_legal_iff_fields, hmask, ← hop, hdata]
  simp

/-- Rows are disjoint: the `op` of the word names the row it selects (R61). -/
theorem opcodeRow_eq_of_rowSelected {w : CmdWord} {i : Instr} (h : rowSelected (opcodeRow i) w = true) :
    opcodeRow i = rowOfOp (opField w) := by
  obtain ⟨hop, -⟩ := (rowSelected_opcodeRow i w).mp h
  rw [opcodeRow_eq_rowOfOp, hop]

/-- Settles O3: a row's mask and match test the fields the decoder tests, and the `op` of a word names the only row it
can select. -/
theorem opcodeRowsSelectAndAreDisjoint : Obligations.OpcodeRowsSelectAndAreDisjoint := by
  refine ⟨fun w => ⟨?init, fun d => ?byte, fun c => ?char, ?endRequest⟩, fun w i j hi hj => ?disjoint⟩
  case init => exact rowSelected_iff_of_reserved rfl rfl w
  case byte => exact rowSelected_iff_of_operand rfl rfl rfl
  case char => exact rowSelected_iff_of_operand rfl rfl rfl
  case endRequest => exact rowSelected_iff_of_reserved rfl rfl w
  case disjoint => rw [opcodeRow_eq_of_rowSelected hi, opcodeRow_eq_of_rowSelected hj]

/-! ### The words the decoder rejects -/

/-- The answers of the decoder, told apart by the word's fields (R62, R63). -/
theorem decodeCw_cases (w : CmdWord) :
    decodeCw w = .legal .init ∨ decodeCw w = .legal (.byte (dataField w)) ∨
    decodeCw w = .legal (.char (dataField w)) ∨ decodeCw w = .legal .endRequest ∨
    decodeCw w = .illegal .reservedInInit ∨ decodeCw w = .illegal .reservedInEnd := by
  unfold decodeCw
  split_ifs <;> simp

theorem decodeCw_reservedInInit {d : Byte} (hd : d ≠ 0x00#8) :
    decodeCw (0b00#2 ++ d : BitVec (2 + 8)) = .illegal .reservedInInit := by
  simp [decodeCw, opField_append, dataField_append, hd]

theorem decodeCw_reservedInEnd {d : Byte} (hd : d ≠ 0x00#8) :
    decodeCw (0b11#2 ++ d : BitVec (2 + 8)) = .illegal .reservedInEnd := by
  simp [decodeCw, opField_append, dataField_append, hd]

/-- Settles O1: each legal word is its command's encoding, and each other word has a reserved field that is not zero. -/
theorem decodeBoundaryWords : Obligations.DecodeBoundaryWords :=
  ⟨decodeCw_encode .init,
    decodeCw_reservedInInit (d := 0x01#8) (by decide),
    decodeCw_reservedInInit (d := 0x80#8) (by decide),
    decodeCw_reservedInInit (d := 0xFF#8) (by decide),
    decodeCw_encode (.byte 0x00#8),
    decodeCw_encode (.byte 0xFF#8),
    decodeCw_encode (.char 0x00#8),
    decodeCw_encode (.char 0xFF#8),
    decodeCw_encode .endRequest,
    decodeCw_reservedInEnd (d := 0x01#8) (by decide),
    decodeCw_reservedInEnd (d := 0xFF#8) (by decide)⟩

/-! ### Counting words -/

/-- Every bit vector of width `n` once, in the order of its number. -/
def allBitVecs (n : Nat) : List (BitVec n) := (List.range (2 ^ n)).map (BitVec.ofNat n)

@[simp] theorem length_allBitVecs (n : Nat) : (allBitVecs n).length = 2 ^ n := by simp [allBitVecs]

theorem mem_allBitVecs {n : Nat} (v : BitVec n) : v ∈ allBitVecs n :=
  List.mem_map.mpr ⟨v.toNat, List.mem_range.mpr v.isLt, by simp⟩

theorem nodup_allBitVecs (n : Nat) : (allBitVecs n).Nodup := by
  refine List.Nodup.map_on (fun x hx y hy hxy => ?_) List.nodup_range
  have h := congrArg BitVec.toNat hxy
  rwa [BitVec.toNat_ofNat, BitVec.toNat_ofNat, Nat.mod_eq_of_lt (List.mem_range.mp hx),
    Nat.mod_eq_of_lt (List.mem_range.mp hy)] at h

/-- The words that meet a condition are as many as a list that holds each of them once. -/
theorem length_filter_allBitVecs {n : Nat} {p : BitVec n → Bool} {sel : List (BitVec n)} (hsel : sel.Nodup)
    (hp : ∀ v, p v = true ↔ v ∈ sel) : ((allBitVecs n).filter p).length = sel.length := by
  refine List.Perm.length_eq ((List.perm_ext_iff_of_nodup ((nodup_allBitVecs n).filter p) hsel).mpr fun v => ?_)
  simp [mem_allBitVecs, hp]

/-- A command without operand has one word. -/
theorem length_filter_decodes_one (i : Instr) :
    ((allBitVecs 10).filter (fun w => decodeCw w = .legal i)).length = 1 := by
  refine length_filter_allBitVecs (List.nodup_singleton (encode i)) fun w => ?_
  rw [decide_eq_true_iff, decodeCw_eq_legal_iff, List.mem_singleton]

/-- A command whose `data` field is its operand has one word for each of the 256 operands. -/
theorem length_filter_decodes_operand {f : Byte → Instr} (hf : ∀ d, operandField (f d) = d) :
    ((allBitVecs 10).filter (fun w => decodeCw w = .legal (f (dataField w)))).length = 256 := by
  have hinj : Function.Injective (fun d => encode (f d)) :=
    encode_injective.comp (Function.LeftInverse.injective hf)
  have hmem (w : CmdWord) : w = encode (f (dataField w)) ↔ w ∈ (allBitVecs 8).map fun d => encode (f d) := by
    rw [List.mem_map]
    constructor
    · exact fun hw => ⟨dataField w, mem_allBitVecs _, hw.symm⟩
    · rintro ⟨d, -, rfl⟩
      rw [dataField_encode, hf]
  rw [length_filter_allBitVecs ((nodup_allBitVecs 8).map hinj) fun w => ?_]
  · simp
  · rw [decide_eq_true_iff, decodeCw_eq_legal_iff, hmem]

/-- Each word of a list is counted for one answer of the decoder and no other. -/
theorem length_eq_sum_of_answers (words : List CmdWord) :
    words.length =
      (words.filter (fun w => decodeCw w = .legal .init)).length +
      (words.filter (fun w => decodeCw w = .legal (.byte (dataField w)))).length +
      (words.filter (fun w => decodeCw w = .legal (.char (dataField w)))).length +
      (words.filter (fun w => decodeCw w = .legal .endRequest)).length +
      (words.filter (fun w =>
        decodeCw w = .illegal .reservedInInit ∨ decodeCw w = .illegal .reservedInEnd)).length := by
  induction words with
  | nil => rfl
  | cons w words ih =>
    rcases decodeCw_cases w with h | h | h | h | h | h <;>
      simp [h, ih] <;> omega

theorem length_filter_decodes_init : ((allBitVecs 10).filter (fun w => decodeCw w = .legal .init)).length = 1 :=
  length_filter_decodes_one .init

theorem length_filter_decodes_byte :
    ((allBitVecs 10).filter (fun w => decodeCw w = .legal (.byte (dataField w)))).length = 256 :=
  length_filter_decodes_operand (f := .byte) fun _ => rfl

theorem length_filter_decodes_char :
    ((allBitVecs 10).filter (fun w => decodeCw w = .legal (.char (dataField w)))).length = 256 :=
  length_filter_decodes_operand (f := .char) fun _ => rfl

theorem length_filter_decodes_endRequest :
    ((allBitVecs 10).filter (fun w => decodeCw w = .legal .endRequest)).length = 1 :=
  length_filter_decodes_one .endRequest

/-- The rejected words are what the legal ones leave of the 1024 (R63). -/
theorem length_filter_rejected :
    ((allBitVecs 10).filter (fun w =>
      decodeCw w = .illegal .reservedInInit ∨ decodeCw w = .illegal .reservedInEnd)).length = 510 := by
  have hsum := length_eq_sum_of_answers (allBitVecs 10)
  rw [length_filter_decodes_init, length_filter_decodes_byte, length_filter_decodes_char,
    length_filter_decodes_endRequest, length_allBitVecs] at hsum
  omega

/-- Settles O2: the legal words are counted by their encodings, and the rejected ones are the rest. -/
theorem decoderCountsWords : Obligations.DecoderCountsWords :=
  ⟨length_filter_decodes_init, length_filter_decodes_byte, length_filter_decodes_char,
    length_filter_decodes_endRequest, length_filter_rejected⟩

end Sys2Proof.Machine

/-! SUPPORT. Every step completes (R64, R147). -/

namespace Sys2Proof.Machine

/-- Every event of the host is carried out to a next state: a word to its effect, a reset inside a command to the cut of
that effect. -/
theorem execEvent_next (e : HostEvent) (s : State) : ∃ t, execEvent e s = .next t := by
  cases e with
  | command w => exact ⟨wordEffect w s, execWord_eq_wordEffect w s⟩
  | reset => exact ⟨resetRegisters s, rfl⟩
  | resetDuring w m n => exact ⟨cutShort m n s (wordEffect w s), by rw [execEvent, execWord_eq_wordEffect]; rfl⟩

/-- Settles O11: a block with no event to take holds its state, and every event is carried out to a next state. -/
theorem everyStepAnswersANextState : Obligations.EveryStepAnswersANextState := by
  intro s
  cases hin : s.input with
  | nil => exact ⟨s, step_waiting s hin⟩
  | cons e rest =>
    rw [step_event s e rest hin]
    exact execEvent_next e (withInput rest s)

end Sys2Proof.Machine

/-! SUPPORT. The CRC Engine: the exclusive or of a byte (R82), one iteration bit by bit (R83, R88), its linearity, and from
them the table form (R91), the bit-serial form (R92) and the residue of a frame with its checksum (R93). -/

namespace Sys2Proof.Machine

/-! ### The exclusive or of a byte (R82) -/

@[simp] theorem lowByte_crcXor (r : Half) (b : Byte) : lowByte (crcXor r b) = lowByte r ^^^ b := by
  have hb : (b.setWidth 16).extractLsb' 0 8 = b := by
    rw [BitVec.extractLsb'_setWidth_of_le (by decide), BitVec.extractLsb'_eq_self]
  rw [lowByte, crcXor, BitVec.extractLsb'_xor, hb, lowByte]

/-- The zero-extended byte has no bit at or above bit 8. -/
@[simp] theorem crcXor_ushiftRight_eight (r : Half) (b : Byte) : crcXor r b >>> 8 = r >>> 8 := by
  have hb : b.setWidth 16 >>> 8 = 0#16 := by
    ext i hi
    simp
  rw [crcXor, BitVec.ushiftRight_xor_distrib, hb, BitVec.xor_zero]

theorem highByte_eq_lowByte_shift (r : Half) : highByte r = lowByte (r >>> 8) := by
  ext i hi
  simp [highByte, lowByte]

@[simp] theorem highByte_crcXor (r : Half) (b : Byte) : highByte (crcXor r b) = highByte r := by
  rw [highByte_eq_lowByte_shift, crcXor_ushiftRight_eight, ← highByte_eq_lowByte_shift]

/-- Settles O42: the zero-extended byte reaches the low byte only. -/
theorem crcXorTouchesTheLowByteAlone : Obligations.CrcXorTouchesTheLowByteAlone := fun r b =>
  ⟨rfl, highByte_crcXor r b, lowByte_crcXor r b⟩

/-! ### One iteration and the byte step (R83, R84, R88) -/

/-- Settles O43: the two outcomes of the test of bit 0, and the eight iterations written out. -/
theorem shiftAndByteStepFollowTheAlgorithm : Obligations.ShiftAndByteStepFollowTheAlgorithm :=
  ⟨shift1_of_bit0, shift1_of_not_bit0, fun _ _ => rfl⟩

/-- One iteration is the bit-serial step without a data bit. -/
theorem shift1_eq_serialStep (r : Half) : shift1 r = serialStep r false := by
  cases h : r.getLsbD 0 with
  | false => rw [shift1_of_not_bit0 r h, serialStep, h, Bool.xor_false, if_neg Bool.false_ne_true, BitVec.xor_zero]
  | true => rw [shift1_of_bit0 r h, serialStep, h, Bool.xor_false, if_pos rfl, polyReflected]

/-- One iteration bit by bit (R88): the next higher bit, and the feedback where the constant has a one. -/
theorem getLsbD_shift1 (r : Half) (i : Nat) :
    (shift1 r).getLsbD i = (r.getLsbD (i + 1) ^^ (r.getLsbD 0 && polyReflected.getLsbD i)) := by
  cases h : r.getLsbD 0 with
  | false => simp [shift1_of_not_bit0 r h, Nat.add_comm 1 i]
  | true => simp [shift1_of_bit0 r h, polyReflected, Nat.add_comm 1 i]

theorem polyReflected_clear_between (i : Nat) (h1 : 1 ≤ i) (h12 : i ≤ 12) : polyReflected.getLsbD i = false := by
  interval_cases i <;> rfl

theorem shift1_eq_shift1Wires (r : Half) : shift1 r = shift1Wires r := by
  refine BitVec.eq_of_getLsbD_eq fun i hi => ?_
  rw [getLsbD_shift1, shift1Wires, BitVec.getLsbD_ofBoolListBE]
  interval_cases i <;> simp [polyReflected]

/-- Settles O45: the feedback enters where the constant has a one, at bits 15, 13 and 0. -/
theorem shiftRegisterAsWires : Obligations.ShiftRegisterAsWires := by
  intro r
  have hset : ∀ i, polyReflected.getLsbD i = true → (shift1 r).getLsbD i = (r.getLsbD (i + 1) ^^ r.getLsbD 0) :=
    fun i hi => by rw [getLsbD_shift1, hi, Bool.and_true]
  have hclear : ∀ i, polyReflected.getLsbD i = false → (shift1 r).getLsbD i = r.getLsbD (i + 1) :=
    fun i hi => by rw [getLsbD_shift1, hi, Bool.and_false, Bool.xor_false]
  have htop : r.getLsbD 16 = false := BitVec.getLsbD_of_ge r 16 (Nat.le_refl 16)
  refine ⟨?_, hclear 14 rfl, hset 13 rfl, fun i h1 h12 => hclear i (polyReflected_clear_between i h1 h12),
    hset 0 rfl, shift1_eq_shift1Wires r⟩
  rw [hset 15 rfl, htop, Bool.false_xor]

/-! ### Linearity, and registers that only shift -/

theorem shift1_xor (x y : Half) : shift1 (x ^^^ y) = shift1 x ^^^ shift1 y := by
  refine BitVec.eq_of_getLsbD_eq fun i _ => ?_
  simp only [BitVec.getLsbD_xor, getLsbD_shift1, Bool.and_xor_distrib_right, Bool.xor_assoc, Bool.xor_left_comm]

theorem shift8_xor (x y : Half) : shift8 (x ^^^ y) = shift8 x ^^^ shift8 y := by
  simp only [shift8, shift1_xor]

/-- Iterations with bit 0 clear only shift (R93). -/
theorem iterate_shift1_of_clear (n : Nat) (r : Half) (h : ∀ i < n, r.getLsbD i = false) :
    shift1^[n] r = r >>> n := by
  induction n with
  | zero => simp
  | succ n ih =>
    have hbit0 : (r >>> n).getLsbD 0 = false := by simpa using h n (Nat.lt_succ_self n)
    rw [Function.iterate_succ_apply', ih fun i hi => h i (Nat.lt_succ_of_lt hi), shift1_of_not_bit0 _ hbit0,
      BitVec.shiftRight_add]

theorem shift8_of_lowByte_zero (r : Half) (h : lowByte r = 0x00#8) : shift8 r = r >>> 8 := by
  refine iterate_shift1_of_clear 8 r fun i hi => ?_
  have hbit : (lowByte r).getLsbD i = false := by simp [h]
  simpa [lowByte, hi] using hbit

/-- R93 (a): the exclusive or clears the low byte, and the eight iterations only shift. -/
theorem crcByte_lowByte (r : Half) : crcByte r (lowByte r) = r >>> 8 := by
  have hclear : lowByte (crcXor r (lowByte r)) = 0x00#8 := by rw [lowByte_crcXor, BitVec.xor_self]
  rw [crcByte, shift8_of_lowByte_zero _ hclear, crcXor_ushiftRight_eight]

/-! ### The other forms of the byte step -/

/-- Eight iterations by a table lookup of the low byte: the register is its low byte and a part that only shifts. -/
theorem shift8_eq_tableEntry (x : Half) : shift8 x = (x >>> 8) ^^^ tableEntry (lowByte x) := by
  have hsplit : x = crcXor x (lowByte x) ^^^ (lowByte x).setWidth 16 := by
    rw [crcXor, BitVec.xor_assoc, BitVec.xor_self, BitVec.xor_zero]
  calc shift8 x = shift8 (crcXor x (lowByte x)) ^^^ shift8 ((lowByte x).setWidth 16) := by
        rw [← shift8_xor, ← hsplit]
    _ = (x >>> 8) ^^^ tableEntry (lowByte x) := by rw [← crcByte, crcByte_lowByte, tableEntry]

/-- Settles O46: one iteration is linear, so the low byte's eight iterations can be looked up. -/
theorem tableFormComputesTheSameStep : Obligations.TableFormComputesTheSameStep := by
  refine ⟨shift1_xor, fun _ => rfl, fun r b => ?_⟩
  rw [crcByte, shift8_eq_tableEntry, crcXor_ushiftRight_eight]
  rfl

/-- The data bits may wait in the register: an iteration on it is the bit-serial step on the register without them. -/
theorem shift1_crcXor (s : Half) (d : Byte) :
    shift1 (crcXor s d) = crcXor (serialStep s (d.getLsbD 0)) (d >>> 1) := by
  have hzext : d.setWidth 16 >>> 1 = (d >>> 1).setWidth 16 := by
    ext i hi
    simp
  have hfeedback : ((crcXor s d).getLsbD 0 ^^ false) = (s.getLsbD 0 ^^ d.getLsbD 0) := by simp [crcXor]
  rw [shift1_eq_serialStep, serialStep, hfeedback, crcXor, BitVec.ushiftRight_xor_distrib, hzext, crcXor, serialStep]
  ac_rfl

/-- The bit-serial form after `n` data bits, with the rest of the byte still to come. -/
theorem iterate_shift1_crcXor (n : Nat) (r : Half) (b : Byte) :
    shift1^[n] (crcXor r b) =
      crcXor ((List.range n).foldl (fun s i => serialStep s (b.getLsbD i)) r) (b >>> n) := by
  induction n with
  | zero => simp
  | succ n ih =>
    rw [Function.iterate_succ_apply', ih, shift1_crcXor, List.range_succ, List.foldl_concat, BitVec.shiftRight_add,
      BitVec.getLsbD_ushiftRight, Nat.add_zero]

/-- Settles O47: after eight data bits nothing of the byte is left to come. -/
theorem bitSerialFormComputesTheSameStep : Obligations.BitSerialFormComputesTheSameStep := by
  intro r b
  have hrest : crcXor (crcByteSerial r b) (b >>> 8) = crcByteSerial r b := by
    rw [BitVec.ushiftRight_eq_zero (by decide)]
    simp [crcXor]
  calc crcByteSerial r b = crcXor (crcByteSerial r b) (b >>> 8) := hrest.symm
    _ = shift1^[8] (crcXor r b) := (iterate_shift1_crcXor 8 r b).symm
    _ = crcByte r b := rfl

/-! ### The whole computation (R85, R93) -/

/-- Settles O44: the fold starts at `CRC_INIT` (R81) and takes its last byte last. -/
theorem computeIsTheFoldFromAllOnes : Obligations.ComputeIsTheFoldFromAllOnes := ⟨rfl, compute_append_singleton⟩

/-- A register fed its own low byte and then its own high byte is zero (R93 (b)). -/
theorem crcByte_lowByte_highByte (r : Half) : crcByte (crcByte r (lowByte r)) (highByte r) = 0x0000#16 := by
  rw [highByte_eq_lowByte_shift, crcByte_lowByte, crcByte_lowByte, ← BitVec.shiftRight_add,
    BitVec.ushiftRight_eq_zero (by decide)]

/-- Settles O48: each of the two bytes equals the register's low byte, so each only shifts. -/
theorem appendedChecksumLeavesZero : Obligations.AppendedChecksumLeavesZero := by
  refine ⟨crcByte_lowByte, fun bytes => ?_⟩
  rw [← List.singleton_append, ← List.append_assoc, compute_append_singleton, compute_append_singleton,
    crcByte_lowByte_highByte]

end Sys2Proof.Machine

/-! SUPPORT. The command `BYTE` by phase (R89, R90) and its frame. -/

namespace Sys2Proof.Machine

theorem exec_byte (d : Byte) (s : State) : exec (.byte d) s = .next (whenRun (byteBody d) s) := rfl

/-- The gate outside `RUN` (R163, R165). -/
theorem whenRun_of_not_run (f : State → State) (s : State) (h : s.ph ≠ .run) :
    whenRun f s = if s.ph = .fail then s else raise .commandError s := by
  rcases whenRun_cases f s with ⟨hp, -⟩ | ⟨hp, e⟩ | ⟨hp, e⟩
  · exact absurd hp h
  · rw [e, if_pos hp]
  · rw [e, if_neg (by rcases hp with hp | hp <;> simp [hp])]

/-- `absorb` as one update of the state (R126). -/
theorem absorb_eq (d : Byte) (s : State) :
    absorb d s = { s with
      bo := s.bo ++ [d]
      txt := s.txt ++ (if s.ne then [0x20#8] else []) ++ [hexdigit (highNibble d), hexdigit (lowNibble d)]
      crc := crcByte s.crc d
      ne := true } := by
  have htxt : s.txt ++ byteText d s =
      s.txt ++ (if s.ne then [0x20#8] else []) ++ [hexdigit (highNibble d), hexdigit (lowNibble d)] := by
    rw [byteText, Bool.cond_eq_ite, List.append_assoc]
    rfl
  rw [← htxt]
  rfl

/-- Settles O13: in `RUN` the gate runs the body, which raises or absorbs. -/
theorem byteInRunAbsorbsUnlessAPairIsOpen : Obligations.ByteInRunAbsorbsUnlessAPairIsOpen := by
  intro d s hp
  rw [exec_byte, whenRun_run _ s hp]
  rcases byteBody_cases d s with ⟨hv, e⟩ | ⟨hv, e⟩
  · rw [e, if_pos hv]
    rfl
  · rw [e, if_neg (by simp [hv]), absorb_eq]

/-- Settles O14: outside `RUN` the gate does not reach the body. -/
theorem byteOutsideRunIsDiscardedOrRaises : Obligations.ByteOutsideRunIsDiscardedOrRaises := by
  intro d s hp
  rw [exec_byte, whenRun_of_not_run _ s hp, apply_ite Host.Outcome.next]
  rfl

/-- Everything `BYTE` can do: absorb its byte, be discarded, or raise. -/
theorem exec_byte_cases {d : Byte} {s t : State} (h : exec (.byte d) s = .next t) :
    (s.ph = .run ∧ s.hnv = false ∧ t = absorb d s) ∨ (s.ph = .fail ∧ t = s) ∨
    (s.ph ≠ .fail ∧ ¬ (s.ph = .run ∧ s.hnv = false) ∧ t = raise .commandError s) := by
  rw [exec_byte] at h
  obtain rfl := Host.Outcome.next.inj h
  rcases whenRun_cases (byteBody d) s with ⟨hp, e⟩ | ⟨hp, e⟩ | ⟨hp, e⟩ <;> rw [e]
  · rcases byteBody_cases d s with ⟨hv, e⟩ | ⟨hv, e⟩ <;> rw [e]
    · exact .inr (.inr ⟨by simp [hp], by simp [hv], rfl⟩)
    · exact .inl ⟨hp, hv, rfl⟩
  · exact .inr (.inl ⟨hp, rfl⟩)
  · exact .inr (.inr ⟨by rcases hp with hp | hp <;> simp [hp], by rcases hp with hp | hp <;> simp [hp], rfl⟩)

/-- Settles O20: the frame of each of the three things `BYTE` can do. -/
theorem byteFrame : Obligations.ByteFrame := by
  intro d s t h
  rcases exec_byte_cases h with ⟨hp, hv, rfl⟩ | ⟨hp, rfl⟩ | ⟨hp, hopen, rfl⟩
  · exact ⟨rfl, rfl, rfl, rfl, fun _ => ⟨rfl, rfl, by simp, by simp⟩, fun hn => absurd ⟨hp, hv⟩ hn,
      fun hf => absurd (hp.symm.trans hf) (by decide)⟩
  · exact ⟨rfl, rfl, rfl, rfl, fun ⟨hr, _⟩ => absurd (hp.symm.trans hr) (by decide), fun _ => ⟨rfl, rfl, rfl, rfl⟩,
      fun _ => ⟨rfl, rfl⟩⟩
  · exact ⟨rfl, rfl, rfl, rfl, fun ha => absurd ha hopen, fun _ => ⟨rfl, rfl, rfl, rfl⟩, fun hf => absurd hf hp⟩

end Sys2Proof.Machine

/-! SUPPORT. The command `CHAR` by phase and by the class of its character (R108, R109), and its frame. -/

namespace Sys2Proof.Machine

@[simp] theorem highNibble_joinNibbles (h l : Nibble) : highNibble (joinNibbles h l) = h :=
  BitVec.extractLsb'_append_eq_left

@[simp] theorem lowNibble_joinNibbles (h l : Nibble) : lowNibble (joinNibbles h l) = l :=
  BitVec.extractLsb'_append_eq_right

theorem exec_char (c : Byte) (s : State) : exec (.char c) s = .next (whenRun (charBody c) s) := rfl

/-- Settles O15: in `RUN` the gate runs the body, which does what the class of the character says. -/
theorem charInRunFollowsTheClassOfTheCharacter : Obligations.CharInRunFollowsTheClassOfTheCharacter := by
  intro c s hp
  rw [exec_char, whenRun_run _ s hp]
  rcases charBody_cases c s with ⟨hc, e⟩ | ⟨hc, e⟩ | ⟨v, hc, hv, e⟩ | ⟨v, hc, hv, e⟩ <;> rw [e, hc]
  · rfl
  · simp only [hv, Bool.false_eq_true, if_false]
    rfl
  · simp only [hv, if_true, absorb_eq, highNibble_joinNibbles, lowNibble_joinNibbles]
    rfl

/-- Settles O16: outside `RUN` the gate does not reach the body. -/
theorem charOutsideRunIsDiscardedOrRaises : Obligations.CharOutsideRunIsDiscardedOrRaises := by
  intro c s hp
  rw [exec_char, whenRun_of_not_run _ s hp, apply_ite Host.Outcome.next]
  rfl

/-- Everything `CHAR` can do: nothing, raise, hold the first digit of a group, or absorb a completed group. -/
theorem exec_char_cases {c : Byte} {s t : State} (h : exec (.char c) s = .next t) :
    ((s.ph = .fail ∨ s.ph = .run ∧ classify s.cfg c = .ws) ∧ t = s) ∨
    (s.ph ≠ .fail ∧ (s.ph = .run → classify s.cfg c = .other) ∧ ∃ e, t = raise e s) ∨
    (∃ v, s.ph = .run ∧ classify s.cfg c = .hex v ∧ s.hnv = false ∧ t = holdDigit v s) ∨
    (∃ v, s.ph = .run ∧ classify s.cfg c = .hex v ∧ s.hnv = true ∧
      t = absorb (joinNibbles s.hn v) (clearHnv s)) := by
  rw [exec_char] at h
  obtain rfl := Host.Outcome.next.inj h
  rcases whenRun_cases (charBody c) s with ⟨hp, e⟩ | ⟨hp, e⟩ | ⟨hp, e⟩ <;> rw [e]
  · rcases charBody_cases c s with ⟨hc, e⟩ | ⟨hc, e⟩ | ⟨v, hc, hv, e⟩ | ⟨v, hc, hv, e⟩ <;> rw [e]
    · exact .inl ⟨.inr ⟨hp, hc⟩, rfl⟩
    · exact .inr (.inl ⟨by simp [hp], fun _ => hc, _, rfl⟩)
    · exact .inr (.inr (.inl ⟨v, hp, hc, hv, rfl⟩))
    · exact .inr (.inr (.inr ⟨v, hp, hc, hv, rfl⟩))
  · exact .inl ⟨.inl hp, rfl⟩
  · exact .inr (.inl ⟨by rcases hp with hp | hp <;> simp [hp], by rcases hp with hp | hp <;> simp [hp], _, rfl⟩)

/-- Settles O21: the frame of each of the four things `CHAR` can do. -/
theorem charFrame : Obligations.CharFrame := by
  intro c s t h
  rcases exec_char_cases h with ⟨-, rfl⟩ | ⟨hp, hother, e, rfl⟩ | ⟨v, hp, hc, hv, rfl⟩ | ⟨v, hp, hc, hv, rfl⟩
  · exact ⟨rfl, rfl, fun _ => ⟨rfl, rfl⟩, fun _ => ⟨rfl, rfl, rfl, rfl⟩, fun _ => rfl, fun _ => rfl,
      List.take_length, List.take_length⟩
  · have hkeep : ¬ ((s.ph = .run ∧ classify s.cfg c ≠ .other) ∨ s.ph = .fail) := by
      rintro (⟨hr, hc⟩ | hf)
      · exact hc (hother hr)
      · exact hp hf
    exact ⟨rfl, rfl, fun hk => absurd hk hkeep, fun _ => ⟨rfl, rfl, rfl, rfl⟩, fun _ => rfl, fun _ => rfl,
      List.take_length, List.take_length⟩
  · exact ⟨rfl, rfl, fun _ => ⟨rfl, rfl⟩, fun _ => ⟨rfl, rfl, rfl, rfl⟩, fun hn => absurd ⟨hp, hv, v, hc⟩ hn,
      fun hn => absurd ⟨hp, v, hc⟩ hn, List.take_length, List.take_length⟩
  · exact ⟨rfl, rfl, fun _ => ⟨rfl, rfl⟩, fun hn => absurd ⟨hp, hv, v, hc⟩ hn, fun _ => rfl,
      fun hn => absurd ⟨hp, v, hc⟩ hn, by simp, by simp⟩

end Sys2Proof.Machine

/-! SUPPORT. The classes of the characters (R104) and `decode` of a whole text (R100 to R107). -/

namespace Sys2Proof.Machine

/-! ### The classes -/

theorem classify_eq_ws_iff (cfg : Config) (c : Byte) : classify cfg c = .ws ↔ c ∈ cfg.wsSet := by
  unfold classify
  split_ifs with hws <;> simp [hws]

/-- The class of a character outside `WS_SET` does not depend on `WS_SET`. -/
theorem classify_of_notMem (cfg : Config) (c : Byte) (h : c ∉ cfg.wsSet) : classify cfg c = classify ⟨[]⟩ c := by
  simp [classify, h]

theorem classify_of_not_digit (cfg : Config) (c : Byte) (hws : c ∉ cfg.wsSet) (hdigit : isHexDigitCode c = false) :
    classify cfg c = .other := by
  simp only [isHexDigitCode, Bool.or_eq_false_iff, ← Bool.decide_and, decide_eq_false_iff_not] at hdigit
  obtain ⟨⟨hdec, hupper⟩, hlower⟩ := hdigit
  rw [classify, if_neg hws, if_neg hdec, if_neg hupper, if_neg hlower]

theorem space_mem_of_wellFormed {cfg : Config} (h : cfg.wellFormed = true) : space ∈ cfg.wsSet := by
  simp only [Config.wellFormed, Bool.and_eq_true, List.contains_iff_mem] at h
  obtain ⟨hspace, -⟩ := h
  exact hspace

theorem digit_notMem_of_wellFormed {cfg : Config} (h : cfg.wellFormed = true) {c : Byte}
    (hdigit : isHexDigitCode c = true) : c ∉ cfg.wsSet := by
  intro hmem
  simp only [Config.wellFormed, Bool.and_eq_true, List.all_eq_true] at h
  obtain ⟨-, hall⟩ := h
  simpa [hdigit] using hall c hmem

/-- Under an admissible `WS_SET` a digit has the class it has with no whitespace at all (R101). -/
theorem classify_digit {cfg : Config} (hwf : cfg.wellFormed = true) {c : Byte} {v : Nibble}
    (hdigit : isHexDigitCode c = true ∧ classify ⟨[]⟩ c = .hex v) : classify cfg c = .hex v := by
  obtain ⟨hcode, hv⟩ := hdigit
  rw [classify_of_notMem cfg c (digit_notMem_of_wellFormed hwf hcode), hv]

/-- Settles O49: no digit is whitespace, so the class of each of the 22 does not depend on `WS_SET`. -/
theorem characterClassesForAdmissibleWhitespace : Obligations.CharacterClassesForAdmissibleWhitespace := by
  intro cfg c hwf
  refine ⟨classify_eq_ws_iff cfg c, (classify_eq_ws_iff cfg _).mpr (space_mem_of_wellFormed hwf), fun n hn => ?_,
    fun n hn => ⟨?_, ?_⟩, classify_of_not_digit cfg c⟩
  · exact classify_digit hwf (by interval_cases n <;> decide)
  · exact classify_digit hwf (by interval_cases n <;> decide)
  · exact classify_digit hwf (by interval_cases n <;> decide)

/-! ### Cleaned texts in groups of two digits -/

theorem joinNibbles_toNat (h l : Nibble) : (joinNibbles h l).toNat = 16 * h.toNat + l.toNat := by
  have hl : l.toNat < 2 ^ 4 := l.isLt
  rw [joinNibbles, BitVec.toNat_append, ← Nat.shiftLeft_add_eq_or_of_lt hl, Nat.shiftLeft_eq, Nat.mul_comm]

theorem mem_clean_iff (cfg : Config) (t : Text) (c : Byte) : c ∈ clean cfg t ↔ c ∈ t ∧ classify cfg c ≠ .ws := by
  simp [clean]

theorem other_mem_clean_iff (cfg : Config) (t : Text) :
    (∃ c ∈ clean cfg t, classify cfg c = .other) ↔ ∃ c ∈ t, classify cfg c = .other := by
  constructor
  · rintro ⟨c, hmem, hc⟩
    exact ⟨c, ((mem_clean_iff cfg t c).mp hmem).1, hc⟩
  · rintro ⟨c, hmem, hc⟩
    exact ⟨c, (mem_clean_iff cfg t c).mpr ⟨hmem, by simp [hc]⟩, hc⟩

/-- A text without `OTHER` is all digits once it is cleaned. -/
theorem clean_digits {cfg : Config} {t : Text} (h : ∀ c ∈ t, classify cfg c ≠ .other) :
    ∀ c ∈ clean cfg t, ∃ v, classify cfg c = .hex v := by
  intro c hmem
  obtain ⟨hmem, hws⟩ := (mem_clean_iff cfg t c).mp hmem
  cases hc : classify cfg c with
  | ws => exact absurd hc hws
  | hex v => exact ⟨v, rfl⟩
  | other => exact absurd hc (h c hmem)

/-- The text is a sequence of two-digit groups, and these are their bytes (R103). -/
inductive DigitGroups (cfg : Config) : Text → ByteSeq → Prop where
  | nil : DigitGroups cfg [] []
  | cons {a b : Byte} {h l : Nibble} {rest : Text} {bytes : ByteSeq} (ha : classify cfg a = .hex h)
      (hb : classify cfg b = .hex l) (hrest : DigitGroups cfg rest bytes) :
      DigitGroups cfg (a :: b :: rest) (joinNibbles h l :: bytes)

theorem DigitGroups.parseGroups_eq {cfg : Config} {ds : Text} {bytes : ByteSeq} (hg : DigitGroups cfg ds bytes) :
    parseGroups cfg ds = some bytes := by
  induction hg with
  | nil => rfl
  | cons ha hb _ ih => rw [parseGroups_hex _ _ _ _ _ _ ha hb, ih, Option.map_some]

theorem digitGroups_of_parseGroups {cfg : Config} {ds : Text} {bytes : ByteSeq}
    (h : parseGroups cfg ds = some bytes) : DigitGroups cfg ds bytes := by
  induction ds using List.twoStepInduction generalizing bytes with
  | nil =>
    obtain rfl := Option.some.inj h
    exact .nil
  | singleton a => exact absurd h.symm (Option.some_ne_none bytes)
  | cons_cons a b rest ih _ =>
    rw [parseGroups] at h
    split at h
    next hi lo ha hb =>
      obtain ⟨tailBytes, htail, rfl⟩ := Option.map_eq_some_iff.mp h
      exact .cons ha hb (ih htail)
    next => exact absurd h.symm (Option.some_ne_none bytes)

/-- `parseGroups` accepts exactly the sequences of two-digit groups (R103, R105). -/
theorem parseGroups_eq_some_iff (cfg : Config) (ds : Text) (bytes : ByteSeq) :
    parseGroups cfg ds = some bytes ↔ DigitGroups cfg ds bytes :=
  ⟨digitGroups_of_parseGroups, DigitGroups.parseGroups_eq⟩

theorem DigitGroups.length_eq {cfg : Config} {ds : Text} {bytes : ByteSeq} (hg : DigitGroups cfg ds bytes) :
    ds.length = 2 * bytes.length := by
  induction hg with
  | nil => rfl
  | cons _ _ _ ih => simp only [List.length_cons, ih]; omega

theorem DigitGroups.no_other {cfg : Config} {ds : Text} {bytes : ByteSeq} (hg : DigitGroups cfg ds bytes) :
    ∀ c ∈ ds, classify cfg c ≠ .other := by
  induction hg with
  | nil => simp
  | cons ha hb _ ih => simpa [ha, hb] using ih

/-- Byte `k` comes from the characters `2k` and `2k+1`, the first giving the high digit (R103). -/
theorem DigitGroups.getElem {cfg : Config} {ds : Text} {bytes : ByteSeq} (hg : DigitGroups cfg ds bytes) :
    ∀ (k : Nat) (b : Byte), bytes[k]? = some b →
      ∃ x y h l, ds[2 * k]? = some x ∧ ds[2 * k + 1]? = some y ∧
        classify cfg x = .hex h ∧ classify cfg y = .hex l ∧ b = joinNibbles h l := by
  induction hg with
  | nil => simp
  | @cons x y h l rest bytes ha hb _ ih =>
    intro k b hk
    cases k with
    | zero => exact ⟨x, y, h, l, rfl, rfl, ha, hb, (Option.some.inj hk).symm⟩
    | succ k => exact ih k b hk

/-- A text of digits is groups alone, or groups and one digit more. -/
theorem exists_digitGroups {cfg : Config} (ds : Text) (hds : ∀ c ∈ ds, ∃ v, classify cfg c = .hex v) :
    ∃ groups bytes, DigitGroups cfg groups bytes ∧
      (ds = groups ∨ ∃ c v, classify cfg c = .hex v ∧ ds = groups ++ [c]) := by
  induction ds using List.twoStepInduction with
  | nil => exact ⟨[], [], .nil, .inl rfl⟩
  | singleton c =>
    obtain ⟨v, hv⟩ := hds c (by simp)
    exact ⟨[], [], .nil, .inr ⟨c, v, hv, rfl⟩⟩
  | cons_cons a b rest ih _ =>
    obtain ⟨h, ha⟩ := hds a (by simp)
    obtain ⟨l, hb⟩ := hds b (by simp)
    obtain ⟨groups, bytes, hg, hsplit⟩ := ih fun c hc => hds c (by simp [hc])
    refine ⟨a :: b :: groups, joinNibbles h l :: bytes, .cons ha hb hg, ?_⟩
    rcases hsplit with rfl | ⟨c, v, hc, rfl⟩
    · exact .inl rfl
    · exact .inr ⟨c, v, hc, rfl⟩

/-! ### `decode` -/

/-- The length check of `decode` adds nothing: a text of groups has even length. -/
theorem decodeText_eq_some_iff (cfg : Config) (t : Text) (bytes : ByteSeq) :
    decodeText cfg t = some bytes ↔ DigitGroups cfg (clean cfg t) bytes := by
  rw [← parseGroups_eq_some_iff]
  simp only [decodeText]
  split_ifs with hodd
  · refine iff_of_false id fun h => ?_
    have hlen := (digitGroups_of_parseGroups h).length_eq
    omega
  · rfl

theorem decodeText_eq_none_iff (cfg : Config) (t : Text) :
    decodeText cfg t = none ↔ (clean cfg t).length % 2 = 1 ∨ ∃ c ∈ t, classify cfg c = .other := by
  constructor
  · intro hnone
    by_contra hgood
    push Not at hgood
    obtain ⟨heven, hother⟩ := hgood
    obtain ⟨groups, bytes, hg, hsplit | ⟨c, v, -, hsplit⟩⟩ := exists_digitGroups _ (clean_digits hother)
    · rw [← hsplit, ← decodeText_eq_some_iff, hnone] at hg
      exact absurd hg.symm (Option.some_ne_none bytes)
    · rw [hsplit, List.length_append, hg.length_eq, List.length_singleton] at heven
      omega
  · intro hbad
    rw [Option.eq_none_iff_forall_ne_some]
    intro bytes hsome
    have hg := (decodeText_eq_some_iff cfg t bytes).mp hsome
    rcases hbad with hodd | hother
    · have hlen := hg.length_eq
      omega
    · obtain ⟨c, hmem, hc⟩ := (other_mem_clean_iff cfg t).mpr hother
      exact hg.no_other c hmem hc

/-- Settles O50: the characters that are not whitespace are the cleaned text. -/
theorem decodeFailsOnOddLengthOrBadCharacter : Obligations.DecodeFailsOnOddLengthOrBadCharacter :=
  decodeText_eq_none_iff

/-- Settles O51: what decodes is a sequence of groups once it is cleaned, and `decode` reads the cleaned text alone. -/
theorem decodeTakesTwoCharacterGroupsInOrder : Obligations.DecodeTakesTwoCharacterGroupsInOrder := by
  refine ⟨fun cfg t bytes hdec => ?_, fun cfg t u hclean => by rw [decodeText, hclean, ← decodeText]⟩
  have hg := (decodeText_eq_some_iff cfg t bytes).mp hdec
  refine ⟨hg.length_eq, fun k b hk => ?_⟩
  obtain ⟨x, y, h, l, hx, hy, hcx, hcy, rfl⟩ := hg.getElem k b hk
  exact ⟨x, y, h, l, hx, hy, hcx, hcy, joinNibbles_toNat h l⟩

end Sys2Proof.Machine

/-! SUPPORT. The `CHAR` commands of a text, one character at a time, against `decode` of the text (R110). -/

namespace Sys2Proof.Machine

/-! ### One character in `RUN`, by its class (R108) -/

theorem charBody_ws {c : Byte} {s : State} (hc : classify s.cfg c = .ws) : charBody c s = s := by
  simp [charBody, hc]

theorem charBody_other {c : Byte} {s : State} (hc : classify s.cfg c = .other) :
    charBody c s = raise .parseError s := by
  simp [charBody, hc]

theorem charBody_first_digit {c : Byte} {v : Nibble} {s : State} (hc : classify s.cfg c = .hex v)
    (hv : s.hnv = false) : charBody c s = holdDigit v s := by
  simp [charBody, digitBody, hc, hv]

theorem charBody_second_digit {c : Byte} {v : Nibble} {s : State} (hc : classify s.cfg c = .hex v)
    (hv : s.hnv = true) : charBody c s = absorb (joinNibbles s.hn v) (clearHnv s) := by
  simp [charBody, digitBody, hc, hv]

/-- Only a character of class `OTHER` leaves `RUN`. -/
theorem charBody_ph {c : Byte} {s : State} (hc : classify s.cfg c ≠ .other) : (charBody c s).ph = s.ph := by
  rcases charBody_cases c s with ⟨-, e⟩ | ⟨hc', -⟩ | ⟨v, -, -, e⟩ | ⟨v, -, -, e⟩
  · rw [e]
  · exact absurd hc' hc
  · rw [e, holdDigit_ph]
  · rw [e, absorb_ph, clearHnv_ph]

/-! ### The characters of a text -/

/-- The state after a `CHAR` for each character of the text, in order. -/
def feedChars (t : Text) (s : State) : State := t.foldl (fun s c => whenRun (charBody c) s) s

@[simp] theorem feedChars_nil (s : State) : feedChars [] s = s := rfl

theorem feedChars_append (t u : Text) (s : State) : feedChars (t ++ u) s = feedChars u (feedChars t s) := by
  simp [feedChars]

theorem feedChars_cons_of_run (c : Byte) (t : Text) {s : State} (hp : s.ph = .run) :
    feedChars (c :: t) s = feedChars t (charBody c s) := by
  rw [feedChars, List.foldl_cons, whenRun_run _ s hp, ← feedChars]

/-- In `FAIL` every character is discarded (R109). -/
theorem feedChars_of_fail (t : Text) {s : State} (hp : s.ph = .fail) : feedChars t s = s := by
  induction t with
  | nil => rfl
  | cons c t ih => rw [feedChars, List.foldl_cons, whenRun_fail _ s hp, ← feedChars, ih]

/-- From `RUN`, whitespace makes no difference, wherever it stands (R101). -/
theorem feedChars_clean (t : Text) : ∀ {s : State}, s.ph = .run → feedChars t s = feedChars (clean s.cfg t) s := by
  induction t with
  | nil => exact fun _ => rfl
  | cons c t ih =>
    intro s hp
    rw [feedChars_cons_of_run c t hp]
    cases hc : classify s.cfg c with
    | ws => rw [clean_cons_ws _ _ _ hc, charBody_ws hc, ih hp]
    | hex v =>
      have hp' : (charBody c s).ph = .run := by rw [charBody_ph (by simp [hc]), hp]
      rw [clean_cons_of_not_ws _ _ _ (by simp [hc]), feedChars_cons_of_run _ _ hp, ih hp', charBody_cfg]
    | other =>
      rw [clean_cons_of_not_ws _ _ _ (by simp [hc]), feedChars_cons_of_run _ _ hp, charBody_other hc,
        feedChars_of_fail _ rfl, feedChars_of_fail _ rfl]

/-- The first character of class `OTHER` raises `ParseError`, and what follows it is discarded (R110 (a)). -/
theorem feedChars_of_other (t : Text) :
    ∀ {s : State}, s.ph = .run → (∃ c ∈ t, classify s.cfg c = .other) →
      (feedChars t s).ph = .fail ∧ (feedChars t s).ec = some .parseError := by
  induction t with
  | nil => simp
  | cons c t ih =>
    intro s hp hother
    rw [feedChars_cons_of_run c t hp]
    by_cases hc : classify s.cfg c = .other
    · rw [charBody_other hc, feedChars_of_fail t rfl]
      exact ⟨rfl, rfl⟩
    · have hp' : (charBody c s).ph = .run := by rw [charBody_ph hc, hp]
      have hrest : ∃ c' ∈ t, classify (charBody c s).cfg c' = .other := by simpa [hc] using hother
      exact ih hp' hrest

/-! ### Completed groups -/

/-- A completed group: its high digit is held in `HN`, where it stays, and its byte is absorbed (R22, R108). -/
def absorbGroup (b : Byte) (s : State) : State := absorb b (clearHnv (holdDigit (highNibble b) s))

/-- The bytes of completed groups, in order. -/
def absorbGroups (bytes : ByteSeq) (s : State) : State := bytes.foldl (fun s b => absorbGroup b s) s

@[simp] theorem absorbGroups_nil (s : State) : absorbGroups [] s = s := rfl

theorem absorbGroups_cons (b : Byte) (bytes : ByteSeq) (s : State) :
    absorbGroups (b :: bytes) s = absorbGroups bytes (absorbGroup b s) := rfl

@[simp] theorem absorbGroups_ph (bytes : ByteSeq) (s : State) : (absorbGroups bytes s).ph = s.ph := by
  induction bytes generalizing s with
  | nil => rfl
  | cons b bytes ih => rw [absorbGroups_cons, ih]; rfl

@[simp] theorem absorbGroups_cfg (bytes : ByteSeq) (s : State) : (absorbGroups bytes s).cfg = s.cfg := by
  induction bytes generalizing s with
  | nil => rfl
  | cons b bytes ih => rw [absorbGroups_cons, ih]; rfl

theorem absorbGroups_hnv (bytes : ByteSeq) {s : State} (hv : s.hnv = false) : (absorbGroups bytes s).hnv = false := by
  induction bytes generalizing s with
  | nil => exact hv
  | cons b bytes ih => exact ih rfl

@[simp] theorem absorbGroups_bo (bytes : ByteSeq) (s : State) : (absorbGroups bytes s).bo = s.bo ++ bytes := by
  induction bytes generalizing s with
  | nil => exact (List.append_nil s.bo).symm
  | cons b bytes ih => rw [absorbGroups_cons, ih]; simp [absorbGroup]

/-- The two characters of a group complete it. -/
theorem feedChars_group {a b : Byte} {h l : Nibble} {s : State} (rest : Text) (hp : s.ph = .run) (hv : s.hnv = false)
    (ha : classify s.cfg a = .hex h) (hb : classify s.cfg b = .hex l) :
    feedChars (a :: b :: rest) s = feedChars rest (absorbGroup (joinNibbles h l) s) := by
  rw [feedChars_cons_of_run _ _ hp, charBody_first_digit ha hv, feedChars_cons_of_run (s := holdDigit h s) _ _ hp,
    charBody_second_digit (s := holdDigit h s) hb rfl, absorbGroup, highNibble_joinNibbles, holdDigit_hn]

theorem DigitGroups.feedChars_eq {cfg : Config} {ds : Text} {bytes : ByteSeq} (hg : DigitGroups cfg ds bytes) :
    ∀ {s : State}, s.cfg = cfg → s.ph = .run → s.hnv = false → feedChars ds s = absorbGroups bytes s := by
  induction hg with
  | nil => exact fun _ _ _ => rfl
  | cons ha hb _ ih =>
    rintro s rfl hp hv
    rw [feedChars_group _ hp hv ha hb, absorbGroups_cons]
    exact ih rfl hp rfl

/-- What the characters of a text without `OTHER` do from `RUN` with no pair open: the complete groups of the cleaned
text are absorbed, and a digit without a partner is held (R110 (b), (c)). -/
theorem feedChars_of_no_other {t : Text} {s : State} (hp : s.ph = .run) (hv : s.hnv = false)
    (ht : ∀ c ∈ t, classify s.cfg c ≠ .other) :
    ∃ groups bytes, DigitGroups s.cfg groups bytes ∧
      ((clean s.cfg t = groups ∧ feedChars t s = absorbGroups bytes s) ∨
        ∃ c v, classify s.cfg c = .hex v ∧ clean s.cfg t = groups ++ [c] ∧
          feedChars t s = holdDigit v (absorbGroups bytes s)) := by
  obtain ⟨groups, bytes, hg, hsplit⟩ := exists_digitGroups _ (clean_digits ht)
  have hgroups : feedChars groups s = absorbGroups bytes s := hg.feedChars_eq rfl hp hv
  refine ⟨groups, bytes, hg, ?_⟩
  rcases hsplit with hclean | ⟨c, v, hc, hclean⟩
  · exact .inl ⟨hclean, by rw [feedChars_clean t hp, hclean, hgroups]⟩
  · refine .inr ⟨c, v, hc, hclean, ?_⟩
    have hp' : (absorbGroups bytes s).ph = .run := by rw [absorbGroups_ph, hp]
    rw [feedChars_clean t hp, hclean, feedChars_append, hgroups, feedChars_cons_of_run _ _ hp', feedChars_nil,
      charBody_first_digit (by rw [absorbGroups_cfg, hc]) (absorbGroups_hnv bytes hv)]

/-! ### The runs of R110 -/

theorem wordEffect_encode_init (s : State) : wordEffect (encode .init) s = openRequest s := by
  simp only [wordEffect, decodeCw_encode]

theorem wordEffect_encode_char (c : Byte) (s : State) :
    wordEffect (encode (.char c)) s = whenRun (charBody c) s := by
  simp only [wordEffect, decodeCw_encode]

theorem wordEffect_encode_endRequest (s : State) : wordEffect (encode .endRequest) s = whenRun endBody s := by
  simp only [wordEffect, decodeCw_encode]

theorem foldl_textCommands (t : Text) (s : State) :
    (textCommands t).foldl (fun s i => wordEffect (encode i) s) s = feedChars t s := by
  simp only [textCommands, List.foldl_map, wordEffect_encode_char, feedChars]

theorem runSteps_text (s : State) (t : Text) :
    runSteps (t.length + 1) { s with input := present (.init :: textCommands t) } =
      .next (withInput [] (feedChars t (openRequest s))) := by
  have h := runSteps_present (.init :: textCommands t) s
  rw [List.foldl_cons, wordEffect_encode_init, foldl_textCommands] at h
  simpa [textCommands] using h

theorem runSteps_line (s : State) (t : Text) :
    runSteps (t.length + 2) { s with input := present (lineCommands t) } =
      .next (withInput [] (whenRun endBody (feedChars t (openRequest s)))) := by
  have h := runSteps_present (lineCommands t) s
  rw [lineCommands, List.cons_append, List.foldl_cons, wordEffect_encode_init, List.foldl_concat, foldl_textCommands,
    wordEffect_encode_endRequest] at h
  simpa [textCommands, lineCommands] using h

/-- `END` in `RUN` raises `ParseError` exactly on an open pair (R143). -/
theorem endBody_parseError_iff (s : State) :
    ((endBody s).ph = .fail ∧ (endBody s).ec = some .parseError) ↔ s.hnv = true := by
  rcases endBody_cases s with ⟨hv, e⟩ | ⟨hv, -, e⟩ | ⟨hv, -, e⟩ <;> simp [e, hv]

/-- The clauses of R110 for a text without `OTHER`, in the terms of the statement. -/
theorem feedChars_agrees_with_decode {t : Text} {s : State} (hp : s.ph = .run) (hv : s.hnv = false)
    (ht : ∀ c ∈ t, classify s.cfg c ≠ .other) :
    (feedChars t s).ph = .run ∧
    (∃ bytes, parseGroups s.cfg ((clean s.cfg t).take (2 * ((clean s.cfg t).length / 2))) = some bytes ∧
      (feedChars t s).bo = s.bo ++ bytes ∧
      ((feedChars t s).hnv = false → decodeText s.cfg t = some bytes)) ∧
    ((feedChars t s).hnv = true ↔ (clean s.cfg t).length % 2 = 1) ∧
    (∀ c, (clean s.cfg t).getLast? = some c → (feedChars t s).hnv = true →
      classify s.cfg c = .hex (feedChars t s).hn) := by
  obtain ⟨groups, bytes, hg, ⟨hclean, hfeed⟩ | ⟨c, v, hc, hclean, hfeed⟩⟩ := feedChars_of_no_other hp hv ht
  · have hv' : (feedChars t s).hnv = false := by rw [hfeed]; exact absorbGroups_hnv bytes hv
    have hlen : (clean s.cfg t).length = 2 * bytes.length := by rw [hclean, hg.length_eq]
    refine ⟨by rw [hfeed, absorbGroups_ph, hp], ⟨bytes, ?_, by rw [hfeed, absorbGroups_bo], fun _ => ?_⟩, ?_, ?_⟩
    · rw [List.take_of_length_le (by omega), hclean, hg.parseGroups_eq]
    · rw [decodeText_eq_some_iff, hclean]; exact hg
    · rw [hv']; simp [hlen]
    · simp [hv']
  · have hv' : (feedChars t s).hnv = true := by rw [hfeed, holdDigit_hnv]
    have hlen : (clean s.cfg t).length = groups.length + 1 := by rw [hclean, List.length_append, List.length_singleton]
    have heven := hg.length_eq
    refine ⟨by rw [hfeed, holdDigit_ph, absorbGroups_ph, hp],
      ⟨bytes, ?_, by rw [hfeed, holdDigit_bo, absorbGroups_bo], by simp [hv']⟩, ?_, ?_⟩
    · rw [hclean, List.take_left' (by simp; omega), hg.parseGroups_eq]
    · simp only [hv', true_iff]; omega
    · intro c' hlast _
      rw [hclean, List.getLast?_concat] at hlast
      obtain rfl := Option.some.inj hlast
      rw [hfeed, holdDigit_hn, hc]

/-- Settles O41: a character of class `OTHER` fails the block as it fails `decode`; without one the complete groups are
absorbed, and an open pair, on which `END` raises `ParseError`, is exactly the odd length on which `decode` fails. -/
theorem charCommandsAgreeWithDecode : Obligations.CharCommandsAgreeWithDecode := by
  intro s text cleaned
  have hnone := decodeText_eq_none_iff s.cfg text
  refine ⟨_, runSteps_text s text, ?_, ?_, ⟨_, runSteps_line s text, ?_⟩⟩
  · intro hother
    obtain ⟨hph, hec⟩ := feedChars_of_other text (openRequest_ph s) hother
    exact ⟨hph, by rw [withInput_ec, hec]; rfl, hnone.mpr (.inr hother)⟩
  · intro ht
    obtain ⟨hph, hbytes, hodd, hlast⟩ := feedChars_agrees_with_decode (openRequest_ph s) (openRequest_hnv s) ht
    exact ⟨hph, hbytes, hodd, hlast, fun hv => hnone.mpr (.inl (hodd.mp hv))⟩
  · by_cases hother : ∃ c ∈ text, classify s.cfg c = .other
    · obtain ⟨hph, hec⟩ := feedChars_of_other text (openRequest_ph s) hother
      rw [whenRun_fail _ _ hph]
      exact iff_of_true ⟨hph, hec⟩ (hnone.mpr (.inr hother))
    · have ht : ∀ c ∈ text, classify s.cfg c ≠ .other := by simpa using hother
      obtain ⟨hph, -, hodd, -⟩ := feedChars_agrees_with_decode (openRequest_ph s) (openRequest_hnv s) ht
      rw [whenRun_run _ _ hph, hnone, or_iff_left hother]
      exact (endBody_parseError_iff _).trans hodd

end Sys2Proof.Machine

/-! SUPPORT. The encoder's tokens and text (R121 to R123), the frame (R124, R125), and `decode` of an encoded sequence
(R128). -/

namespace Sys2Proof.Machine

/-! ### The digits and the token -/

theorem hexdigit_of_le_nine {n : Nat} (hn : n ≤ 9) : hexdigit (BitVec.ofNat 4 n) = BitVec.ofNat 8 (0x30 + n) := by
  interval_cases n <;> decide

theorem hexdigit_ten_add {n : Nat} (hn : n ≤ 5) :
    hexdigit (BitVec.ofNat 4 (10 + n)) = BitVec.ofNat 8 (0x41 + n) := by
  interval_cases n <;> decide

/-- Settles O52: the digits in their two ranges; `token` takes the high digit first. -/
theorem tokenIsTwoUpperCaseDigits : Obligations.TokenIsTwoUpperCaseDigits :=
  ⟨fun _ => hexdigit_of_le_nine, fun _ => hexdigit_ten_add, fun _ => rfl⟩

/-! ### The whole text -/

theorem encodeText_append_of_ne_nil {bytes : ByteSeq} (h : bytes ≠ []) (b : Byte) :
    encodeText (bytes ++ [b]) = encodeText bytes ++ [space] ++ token b := by
  rw [encodeText_append_singleton, List.isEmpty_eq_false_iff.mpr h, Bool.not_false, cond_true, List.append_assoc]

/-- Two characters for the first byte and three for every later one, its separator included. -/
theorem encodeText_cons_length (b : Byte) (rest : ByteSeq) :
    (encodeText (b :: rest)).length = 3 * rest.length + 2 := by
  induction rest generalizing b with
  | nil => exact token_length b
  | cons c rest ih =>
    rw [encodeText_cons_cons, List.length_append, token_length, List.length_cons, ih, List.length_cons]
    omega

theorem encodeText_length_of_ne_nil {bytes : ByteSeq} (h : bytes ≠ []) :
    (encodeText bytes).length = 3 * bytes.length - 1 := by
  obtain ⟨b, rest, rfl⟩ := List.exists_cons_of_ne_nil h
  rw [encodeText_cons_length, List.length_cons]
  omega

/-- Settles O53: the text grows at its end by a space and a token, and so by three characters a byte. -/
theorem encodeJoinsTokensWithOneSpace : Obligations.EncodeJoinsTokensWithOneSpace :=
  ⟨rfl, fun _ => rfl, fun _ b h => encodeText_append_of_ne_nil h b, fun _ => encodeText_length_of_ne_nil⟩

/-! ### The frame -/

theorem tail_eq_append (crc : Half) :
    tail crc = [space] ++ token (lowByte crc) ++ [space] ++ token (highByte crc) := by
  simp [tail]

theorem encodeFrame_eq_append (bytes : ByteSeq) (crc : Half) :
    encodeFrame bytes crc =
      encodeText bytes ++ [space] ++ token (lowByte crc) ++ [space] ++ token (highByte crc) := by
  simp only [encodeFrame, tail_eq_append, List.append_assoc]

theorem encodeFrame_nil (crc : Half) : encodeFrame [] crc = tail crc := List.nil_append _

/-- Settles O54: the frame is the text and the six-character tail, which is all of it for the empty sequence. -/
theorem frameAppendsTheChecksumLowByteFirst : Obligations.FrameAppendsTheChecksumLowByteFirst :=
  ⟨encodeFrame_eq_append, fun crc => ⟨encodeFrame_nil crc, tail_length crc⟩, by decide⟩

/-! ### `decode` of an encoded sequence -/

theorem classify_hexdigit {cfg : Config} (hwf : cfg.wellFormed = true) (n : Nibble) :
    classify cfg (hexdigit n) = .hex n :=
  classify_digit hwf (by revert n; decide)

theorem classify_space {cfg : Config} (hwf : cfg.wellFormed = true) : classify cfg space = .ws :=
  (classify_eq_ws_iff cfg space).mpr (space_mem_of_wellFormed hwf)

/-- Cleaning keeps a token, whose two digits are a group of the byte it was made from. -/
theorem DigitGroups.clean_token_append {cfg : Config} (hwf : cfg.wellFormed = true) (b : Byte) {rest : Text}
    {bytes : ByteSeq} (hrest : DigitGroups cfg (clean cfg rest) bytes) :
    DigitGroups cfg (clean cfg (token b ++ rest)) (b :: bytes) := by
  have hhigh := classify_hexdigit hwf (highNibble b)
  have hlow := classify_hexdigit hwf (lowNibble b)
  have hclean : clean cfg (token b ++ rest) =
      hexdigit (highNibble b) :: hexdigit (lowNibble b) :: clean cfg rest := by
    rw [token, List.cons_append, List.singleton_append, clean_cons_of_not_ws _ _ _ (by simp [hhigh]),
      clean_cons_of_not_ws _ _ _ (by simp [hlow])]
  have hg := DigitGroups.cons hhigh hlow hrest
  rwa [joinNibbles_nibbles, ← hclean] at hg

theorem digitGroups_clean_encodeText {cfg : Config} (hwf : cfg.wellFormed = true) (bytes : ByteSeq) :
    DigitGroups cfg (clean cfg (encodeText bytes)) bytes := by
  induction bytes with
  | nil => exact .nil
  | cons a rest ih =>
    cases rest with
    | nil => exact DigitGroups.clean_token_append (rest := []) hwf a .nil
    | cons b rest =>
      rw [encodeText_cons_cons]
      refine DigitGroups.clean_token_append hwf a ?_
      rw [clean_cons_ws _ _ _ (classify_space hwf)]
      exact ih

/-- Settles O55: cleaning removes the separators and leaves the tokens, one group of two digits for each byte. -/
theorem decodeOfEncodeIsTheBytes : Obligations.DecodeOfEncodeIsTheBytes := fun cfg bytes hwf =>
  (decodeText_eq_some_iff cfg (encodeText bytes) bytes).mpr (digitGroups_clean_encodeText hwf bytes)

end Sys2Proof.Machine

/-! SUPPORT. The request commands one at a time: `INIT` (R141), `END` (R143, R144) and the words the decoder rejects (R145),
their frames, and what a word does outside `RUN` (R152). -/

namespace Sys2Proof.Machine

/-! ### `INIT` -/

theorem exec_init (s : State) : exec .init s = .next (openRequest s) := rfl

/-- Opening a request again changes nothing (R141). -/
@[simp] theorem openRequest_openRequest (s : State) : openRequest (openRequest s) = openRequest s := rfl

/-- Settles O12: `INIT` opens a request without reading its state, and opening it twice is opening it once. -/
theorem initOpensARequestInEveryPhase : Obligations.InitOpensARequestInEveryPhase := by
  refine ⟨exec_init, fun s t h => ?_⟩
  obtain rfl := Host.Outcome.next.inj h
  rw [exec_init, openRequest_openRequest]

/-- Settles O19: opening a request writes the six registers alone. -/
theorem initFrame : Obligations.InitFrame := by
  intro s t h
  obtain rfl := Host.Outcome.next.inj h
  exact ⟨openRequest_bo s, openRequest_txt s, openRequest_input s, openRequest_cfg s⟩

/-! ### `END` -/

theorem exec_endRequest (s : State) : exec .endRequest s = .next (whenRun endBody s) := rfl

/-- A digit of a byte of a vector stands in the vector at the sum of the two positions (R67). -/
theorem extract_digit_of_byte (v : Half) (pos i : Nat) (hi : i + 4 ≤ 8) :
    (v.extractLsb' pos 8).extractLsb' i 4 = v.extractLsb' (pos + i) 4 := by
  ext k hk
  simp [show i + k < 8 by omega, Nat.add_assoc]

/-- The characters of the Checksum's tail by the digits of the register (R124). -/
theorem tail_eq_digits (crc : Half) :
    tail crc = [0x20#8, hexdigit (crc.extractLsb' 4 4), hexdigit (crc.extractLsb' 0 4),
      0x20#8, hexdigit (crc.extractLsb' 12 4), hexdigit (crc.extractLsb' 8 4)] := by
  simp only [tail, token, lowByte, highByte, highNibble, lowNibble, extract_digit_of_byte, Nat.reduceAdd, Nat.reduceLeDiff]
  rfl

/-- A successful `END` as one update of the state (R127, R143). -/
theorem closeRequest_emitTail_eq (s : State) :
    closeRequest (emitTail s) = { s with
      ph := .done
      bo := s.bo ++ [s.crc.extractLsb' 0 8, s.crc.extractLsb' 8 8]
      txt := s.txt ++
        [0x20#8, hexdigit (s.crc.extractLsb' 4 4), hexdigit (s.crc.extractLsb' 0 4),
         0x20#8, hexdigit (s.crc.extractLsb' 12 4), hexdigit (s.crc.extractLsb' 8 4)] } := by
  have hbo : s.bo ++ [lowByte s.crc] ++ [highByte s.crc] = s.bo ++ [s.crc.extractLsb' 0 8, s.crc.extractLsb' 8 8] := by
    rw [List.append_assoc]
    rfl
  rw [← tail_eq_digits, ← hbo]
  rfl

/-- Settles O17: in `RUN` the gate runs the body, which makes its two checks in order and then appends the Checksum. -/
theorem endInRunChecksThenAppendsTheChecksum : Obligations.EndInRunChecksThenAppendsTheChecksum := by
  intro s hp
  rw [exec_endRequest, whenRun_run _ s hp]
  rcases endBody_cases s with ⟨hv, e⟩ | ⟨hv, hn, e⟩ | ⟨hv, hn, e⟩ <;> rw [e]
  · rw [if_pos hv]
    rfl
  · rw [if_neg (by simp [hv]), if_pos hn]
    rfl
  · rw [if_neg (by simp [hv]), if_neg (by simp [hn]), closeRequest_emitTail_eq]

/-- Settles O18: outside `RUN` the gate does not reach the body. -/
theorem endOutsideRunIsDiscardedOrRaises : Obligations.EndOutsideRunIsDiscardedOrRaises := by
  intro s hp
  rw [exec_endRequest, whenRun_of_not_run _ s hp, apply_ite Host.Outcome.next]
  rfl

/-- Everything `END` can do: append the Checksum, be discarded, or raise. -/
theorem exec_endRequest_cases {s t : State} (h : exec .endRequest s = .next t) :
    (s.ph = .run ∧ s.hnv = false ∧ s.ne = true ∧ t = closeRequest (emitTail s)) ∨ (s.ph = .fail ∧ t = s) ∨
    (s.ph ≠ .fail ∧ ¬ (s.ph = .run ∧ s.hnv = false ∧ s.ne = true) ∧ ∃ e, t = raise e s) := by
  rw [exec_endRequest] at h
  obtain rfl := Host.Outcome.next.inj h
  rcases whenRun_cases endBody s with ⟨hp, e⟩ | ⟨hp, e⟩ | ⟨hp, e⟩ <;> rw [e]
  · rcases endBody_cases s with ⟨hv, e⟩ | ⟨hv, hn, e⟩ | ⟨hv, hn, e⟩ <;> rw [e]
    · exact .inr (.inr ⟨by simp [hp], by simp [hv], _, rfl⟩)
    · exact .inr (.inr ⟨by simp [hp], by simp [hn], _, rfl⟩)
    · exact .inl ⟨hp, hv, hn, rfl⟩
  · exact .inr (.inl ⟨hp, rfl⟩)
  · exact .inr (.inr ⟨by rcases hp with hp | hp <;> simp [hp], by rcases hp with hp | hp <;> simp [hp], _, rfl⟩)

/-- Settles O22: the frame of each of the three things `END` can do. -/
theorem endFrame : Obligations.EndFrame := by
  intro s t h
  rcases exec_endRequest_cases h with ⟨hp, hv, hn, rfl⟩ | ⟨hp, rfl⟩ | ⟨hp, hcheck, e, rfl⟩
  · exact ⟨rfl, rfl, rfl, rfl, rfl, rfl, fun _ => rfl, fun hns => absurd ⟨hp, hv, hn⟩ hns,
      fun hf => absurd (hp.symm.trans hf) (by decide), by simp, by simp⟩
  · exact ⟨rfl, rfl, rfl, rfl, rfl, rfl, fun _ => rfl, fun _ => ⟨rfl, rfl⟩, fun _ => ⟨rfl, rfl⟩,
      List.take_length, List.take_length⟩
  · exact ⟨rfl, rfl, rfl, rfl, rfl, rfl, fun hs => absurd hs hcheck, fun _ => ⟨rfl, rfl⟩, fun hf => absurd hf hp,
      List.take_length, List.take_length⟩

/-! ### A word that is not a command, or not `INIT` -/

/-- A step with a word at the head of `CMD` is the effect of that word, legal or not. -/
theorem step_command {s : State} {w : CmdWord} {rest : List HostEvent} (hin : s.input = .command w :: rest) :
    step s = .next (wordEffect w (withInput rest s)) := by
  rw [step_event s _ rest hin, execEvent, execWord_eq_wordEffect]

/-- R63: a reserved field that is not zero makes the word `ILLEGAL`. -/
theorem decodeCw_illegal_of_reserved {w : CmdWord} (hop : opField w = 0b00#2 ∨ opField w = 0b11#2)
    (hdata : dataField w ≠ 0x00#8) : ∃ why, decodeCw w = .illegal why := by
  rw [← opField_append_dataField w]
  rcases hop with hop | hop <;> rw [hop]
  · exact ⟨_, decodeCw_reservedInInit hdata⟩
  · exact ⟨_, decodeCw_reservedInEnd hdata⟩

/-- `ILLEGAL` in every phase (R145). -/
theorem wordEffect_illegal {w : CmdWord} {why : IllegalWord} (hw : decodeCw w = .illegal why) (s : State) :
    wordEffect w s = if s.ph = .fail then s else raise .commandError s := by
  simp only [wordEffect, hw]
  rcases whenRun_cases (raise .commandError) s with ⟨hp, e⟩ | ⟨hp, e⟩ | ⟨hp, e⟩ <;> rw [e]
  · rw [if_neg (by simp [hp])]
  · rw [if_pos hp]
  · rw [if_neg (by rcases hp with hp | hp <;> simp [hp])]

/-- Settles O6: the word decodes to no command, and `ILLEGAL` is discarded or raises by the phase alone. -/
theorem illegalWordIsDiscardedOrRaisesCommandError : Obligations.IllegalWordIsDiscardedOrRaisesCommandError := by
  intro s w rest hin hop hdata
  obtain ⟨why, hw⟩ := decodeCw_illegal_of_reserved hop hdata
  rw [step_command hin, wordEffect_illegal hw, apply_ite Host.Outcome.next]
  rfl

/-- Every word but `INIT`'s passes the gate (R146). -/
theorem wordEffect_gated {w : CmdWord} (hw : w ≠ encode .init) : ∃ f, ∀ s, wordEffect w s = whenRun f s := by
  unfold wordEffect
  split
  next hinit => exact absurd (eq_encode_of_decodeCw hinit) hw
  all_goals exact ⟨_, fun _ => rfl⟩

/-- Settles O28: in `DONE` the word only raises `CommandError`, and in `FAIL` it does nothing. -/
theorem finishedResultIsStable : Obligations.FinishedResultIsStable := by
  intro s w rest hph hin hw
  obtain ⟨f, hf⟩ := wordEffect_gated hw
  refine ⟨_, step_command hin, ?_⟩
  rw [hf]
  rcases hph with hp | hp
  · rw [whenRun_done f (withInput rest s) hp]
    exact ⟨rfl, rfl, rfl, rfl, by rw [status_crc, status_crc]; rfl, fun _ => ⟨rfl, rfl, status_doneLine _⟩⟩
  · rw [whenRun_fail f (withInput rest s) hp]
    exact ⟨rfl, rfl, rfl, rfl, by rw [status_crc, status_crc]; rfl, fun hd => absurd (hp.symm.trans hd) (by decide)⟩

end Sys2Proof.Machine

/-! SUPPORT. Whole requests as the effects of their commands one after another: that they end (R140, R190), and that they
do not depend on the state before their `INIT` (R151). -/

namespace Sys2Proof.Machine

/-! ### The commands of a well-formed request -/

/-- The shape of what follows the `INIT` (R140). -/
theorem requestTailWellFormed_split {cmds : List Instr} (h : requestTailWellFormed cmds = true) :
    ∃ data, (∀ i ∈ data, i.isData = true) ∧ cmds = data ++ [.endRequest] := by
  induction cmds with
  | nil => exact Bool.noConfusion h
  | cons i rest ih =>
    cases rest with
    | nil =>
      obtain rfl : i = .endRequest := of_decide_eq_true h
      exact ⟨[], by simp, rfl⟩
    | cons j rest =>
      obtain ⟨hi, hrest⟩ := Bool.and_eq_true_iff.mp h
      obtain ⟨data, hdata, e⟩ := ih hrest
      exact ⟨i :: data, by simpa [hi] using hdata, by rw [e]; rfl⟩

theorem requestWellFormed_split {cmds : List Instr} (h : requestWellFormed cmds = true) :
    ∃ data, (∀ i ∈ data, i.isData = true) ∧ cmds = .init :: data ++ [.endRequest] := by
  cases cmds with
  | nil => exact Bool.noConfusion h
  | cons i rest =>
    obtain ⟨hi, hrest⟩ := Bool.and_eq_true_iff.mp h
    obtain rfl : i = .init := of_decide_eq_true hi
    obtain ⟨data, hdata, rfl⟩ := requestTailWellFormed_split hrest
    exact ⟨data, hdata, rfl⟩

/-! ### The effects of words and of commands, in order -/

/-- The state after these words, legal or not, in order. -/
def wordsEffect (words : List CmdWord) (s : State) : State := words.foldl (fun s w => wordEffect w s) s

@[simp] theorem wordsEffect_nil (s : State) : wordsEffect [] s = s := rfl

@[simp] theorem wordsEffect_cons (w : CmdWord) (words : List CmdWord) (s : State) :
    wordsEffect (w :: words) s = wordsEffect words (wordEffect w s) := rfl

theorem runSteps_wordsEffect (words : List CmdWord) (s : State) :
    runSteps words.length (withInput (words.map .command) s) = .next (withInput [] (wordsEffect words s)) := by
  have hrun := runSteps_words words [] s
  rwa [List.append_nil] at hrun

/-- The state after these commands, in order. -/
def commandsEffect (cmds : List Instr) (s : State) : State := cmds.foldl (fun s i => wordEffect (encode i) s) s

@[simp] theorem commandsEffect_nil (s : State) : commandsEffect [] s = s := rfl

@[simp] theorem commandsEffect_cons (i : Instr) (cmds : List Instr) (s : State) :
    commandsEffect (i :: cmds) s = commandsEffect cmds (wordEffect (encode i) s) := rfl

theorem commandsEffect_concat (cmds : List Instr) (i : Instr) (s : State) :
    commandsEffect (cmds ++ [i]) s = wordEffect (encode i) (commandsEffect cmds s) := List.foldl_concat ..

theorem runSteps_commandsEffect (cmds : List Instr) (s : State) :
    runSteps cmds.length { s with input := present cmds } = .next (withInput [] (commandsEffect cmds s)) :=
  runSteps_present cmds s

/-- The commands of a request from its `INIT` to before its `END`. -/
theorem commandsEffect_init_cons (data : List Instr) (s : State) :
    commandsEffect (.init :: data) s = commandsEffect data (openRequest s) := by
  rw [commandsEffect_cons, wordEffect_encode_init]

theorem wordEffect_encode_byte (d : Byte) (s : State) :
    wordEffect (encode (.byte d)) s = whenRun (byteBody d) s := by
  simp only [wordEffect, decodeCw_encode]

/-! ### `BYTE` and `END` in `RUN`, by their checks (R89, R143) -/

theorem byteBody_open_pair (d : Byte) {s : State} (hv : s.hnv = true) : byteBody d s = raise .commandError s := by
  simp [byteBody, hv]

theorem byteBody_absorbs (d : Byte) {s : State} (hv : s.hnv = false) : byteBody d s = absorb d s := by
  simp [byteBody, hv]

theorem endBody_open_pair {s : State} (hv : s.hnv = true) : endBody s = raise .parseError s := by
  simp [endBody, hv]

theorem endBody_empty {s : State} (hv : s.hnv = false) (hn : s.ne = false) :
    endBody s = raise .emptyInputError s := by
  simp [endBody, hv, hn]

theorem endBody_closes {s : State} (hv : s.hnv = false) (hn : s.ne = true) :
    endBody s = closeRequest (emitTail s) := by
  simp [endBody, hv, hn]

/-! ### A request ends -/

/-- Between the `INIT` and the `END` a request is open or has failed (R190). -/
def OpenOrFailed (s : State) : Prop := s.ph = .run ∨ s.ph = .fail

/-- The gate raises in neither of the two phases, so what it lets through decides. -/
theorem OpenOrFailed.after_whenRun {f : State → State} {s : State} (hs : OpenOrFailed s)
    (hf : s.ph = .run → OpenOrFailed (f s)) : OpenOrFailed (whenRun f s) := by
  rcases hs with hp | hp
  · rw [whenRun_run f s hp]; exact hf hp
  · rw [whenRun_fail f s hp]; exact .inr hp

/-- Neither data command closes a request. -/
theorem OpenOrFailed.after_data {i : Instr} (hi : i.isData = true) {s : State} (hs : OpenOrFailed s) :
    OpenOrFailed (wordEffect (encode i) s) := by
  cases i with
  | init | endRequest => exact Bool.noConfusion hi
  | byte d =>
    rw [wordEffect_encode_byte]
    refine hs.after_whenRun fun hp => ?_
    rcases byteBody_cases d s with ⟨-, e⟩ | ⟨-, e⟩ <;> rw [e]
    · exact .inr rfl
    · exact .inl hp
  | char c =>
    rw [wordEffect_encode_char]
    refine hs.after_whenRun fun hp => ?_
    rcases charBody_cases c s with ⟨-, e⟩ | ⟨-, e⟩ | ⟨v, -, -, e⟩ | ⟨v, -, -, e⟩ <;> rw [e]
    · exact .inl hp
    · exact .inr rfl
    · exact .inl hp
    · exact .inl hp

/-- `END` closes an open request or fails it, and a failed one stays so (R143, R144). -/
theorem OpenOrFailed.requestEnded {s : State} (hs : OpenOrFailed s) :
    RequestEnded (wordEffect (encode .endRequest) s) := by
  rw [wordEffect_encode_endRequest]
  rcases hs with hp | hp
  · rw [whenRun_run _ s hp]
    rcases endBody_cases s with ⟨-, e⟩ | ⟨-, -, e⟩ | ⟨-, -, e⟩ <;> rw [e]
    · exact .inr rfl
    · exact .inr rfl
    · exact .inl rfl
  · rw [whenRun_fail _ s hp]
    exact .inr hp

/-- In an open request only a `BYTE` brings a `CommandError` (R184). -/
theorem OpenOrFailed.commandError_cause {s : State} (hs : OpenOrFailed s) {i : Instr}
    (h : (wordEffect (encode i) s).ec = some .commandError) : s.ec = some .commandError ∨ ∃ d, i = .byte d := by
  rcases hs with hp | hp
  · cases i with
    | init => rw [wordEffect_encode_init] at h; simp at h
    | byte d => exact .inr ⟨d, rfl⟩
    | char c =>
      rw [wordEffect_encode_char, whenRun_run _ s hp] at h
      rcases charBody_cases c s with ⟨-, e⟩ | ⟨-, e⟩ | ⟨v, -, -, e⟩ | ⟨v, -, -, e⟩ <;> rw [e] at h
      · exact .inl h
      · simp at h
      · exact .inl h
      · exact .inl h
    | endRequest =>
      rw [wordEffect_encode_endRequest, whenRun_run _ s hp] at h
      rcases endBody_cases s with ⟨-, e⟩ | ⟨-, -, e⟩ | ⟨-, -, e⟩ <;> rw [e] at h
      · simp at h
      · simp at h
      · exact .inl h
  · by_cases hi : i = .init
    · rw [hi, wordEffect_encode_init] at h; simp at h
    · obtain ⟨f, hf⟩ := wordEffect_gated (encode_injective.ne hi)
      rw [hf, whenRun_fail f s hp] at h
      exact .inl h

/-- The data commands of a request, one after another. -/
theorem OpenOrFailed.after_dataCommands {data : List Instr} (hdata : ∀ i ∈ data, i.isData = true) {s : State}
    (hs : OpenOrFailed s) :
    OpenOrFailed (commandsEffect data s) ∧
    ((commandsEffect data s).ec = some .commandError → s.ec = some .commandError ∨ ∃ d, .byte d ∈ data) := by
  induction data generalizing s with
  | nil => exact ⟨hs, .inl⟩
  | cons i data ih =>
    obtain ⟨hi, hdata⟩ := List.forall_mem_cons.mp hdata
    obtain ⟨hopen, hcause⟩ := ih hdata (hs.after_data hi)
    refine ⟨hopen, fun h => ?_⟩
    rcases hcause h with h | ⟨d, hd⟩
    · rcases hs.commandError_cause h with h | ⟨d, rfl⟩
      · exact .inl h
      · exact .inr ⟨d, by simp⟩
    · exact .inr ⟨d, by simp [hd]⟩

/-- Settles O36: `INIT` opens the request, the data commands leave it open or failed, and `END` ends it; a `CommandError`
can only have come from a `BYTE`. -/
theorem wellFormedRequestEnds : Obligations.WellFormedRequestEnds := by
  intro s cmds hcmds
  obtain ⟨data, hdata, rfl⟩ := requestWellFormed_split hcmds
  have hinit : OpenOrFailed (openRequest s) := .inl rfl
  obtain ⟨hopen, hcause⟩ := hinit.after_dataCommands hdata
  have heffect : commandsEffect (.init :: data ++ [.endRequest]) s =
      wordEffect (encode .endRequest) (commandsEffect data (openRequest s)) := by
    rw [commandsEffect_concat, commandsEffect_init_cons]
  refine ⟨_, runSteps_commandsEffect _ s, ?_, rfl, fun h => ?_⟩
  · rw [heffect]
    exact hopen.requestEnded
  · rw [heffect] at h
    rcases hopen.commandError_cause h with h | ⟨d, hd⟩
    · obtain ⟨d, hd⟩ := (hcause h).resolve_left (by simp)
      exact ⟨d, by simp [hd]⟩
    · exact Instr.noConfusion hd

/-! ### A request does not depend on the past -/

/-- The same block with items on the streams from before (R33). -/
def withEarlier (bo txt : List Byte) (s : State) : State := { s with bo := bo ++ s.bo, txt := txt ++ s.txt }

theorem absorb_withEarlier (bo txt : List Byte) (d : Byte) (s : State) :
    absorb d (withEarlier bo txt s) = withEarlier bo txt (absorb d s) :=
  State.ext rfl rfl rfl rfl rfl rfl (List.append_assoc ..) (List.append_assoc ..) rfl rfl

theorem closeRequest_emitTail_withEarlier (bo txt : List Byte) (s : State) :
    closeRequest (emitTail (withEarlier bo txt s)) = withEarlier bo txt (closeRequest (emitTail s)) :=
  State.ext rfl rfl rfl rfl rfl rfl (by simp [withEarlier]) (List.append_assoc ..) rfl rfl

theorem whenRun_withEarlier {f : State → State} {bo txt : List Byte} {s : State}
    (hf : f (withEarlier bo txt s) = withEarlier bo txt (f s)) :
    whenRun f (withEarlier bo txt s) = withEarlier bo txt (whenRun f s) := by
  have hph : (withEarlier bo txt s).ph = s.ph := rfl
  rcases whenRun_cases f s with ⟨hp, e⟩ | ⟨hp, e⟩ | ⟨hp | hp, e⟩ <;> rw [e]
  · rw [whenRun_run f _ (hph.trans hp), hf]
  · rw [whenRun_fail f _ (hph.trans hp)]
  · rw [whenRun_idle f _ (hph.trans hp)]; rfl
  · rw [whenRun_done f _ (hph.trans hp)]; rfl

theorem byteBody_withEarlier (bo txt : List Byte) (d : Byte) (s : State) :
    byteBody d (withEarlier bo txt s) = withEarlier bo txt (byteBody d s) := by
  rcases byteBody_cases d s with ⟨hv, e⟩ | ⟨hv, e⟩ <;> rw [e]
  · exact byteBody_open_pair d hv
  · rw [byteBody_absorbs (s := withEarlier bo txt s) d hv, absorb_withEarlier]

theorem charBody_withEarlier (bo txt : List Byte) (c : Byte) (s : State) :
    charBody c (withEarlier bo txt s) = withEarlier bo txt (charBody c s) := by
  rcases charBody_cases c s with ⟨hc, e⟩ | ⟨hc, e⟩ | ⟨v, hc, hv, e⟩ | ⟨v, hc, hv, e⟩ <;> rw [e]
  · exact charBody_ws hc
  · exact charBody_other hc
  · exact charBody_first_digit hc hv
  · rw [charBody_second_digit (s := withEarlier bo txt s) hc hv, ← absorb_withEarlier]; rfl

theorem endBody_withEarlier (bo txt : List Byte) (s : State) :
    endBody (withEarlier bo txt s) = withEarlier bo txt (endBody s) := by
  rcases endBody_cases s with ⟨hv, e⟩ | ⟨hv, hn, e⟩ | ⟨hv, hn, e⟩ <;> rw [e]
  · exact endBody_open_pair hv
  · exact endBody_empty hv hn
  · rw [endBody_closes (s := withEarlier bo txt s) hv hn, closeRequest_emitTail_withEarlier]

/-- Items of earlier requests play no part in the effect of a word, and stand (R33, R151). -/
theorem wordEffect_withEarlier (bo txt : List Byte) (w : CmdWord) (s : State) :
    wordEffect w (withEarlier bo txt s) = withEarlier bo txt (wordEffect w s) := by
  unfold wordEffect
  split
  · rfl
  · exact whenRun_withEarlier (byteBody_withEarlier ..)
  · exact whenRun_withEarlier (charBody_withEarlier ..)
  · exact whenRun_withEarlier (endBody_withEarlier ..)
  · exact whenRun_withEarlier rfl

theorem wordsEffect_withEarlier (bo txt : List Byte) (words : List CmdWord) (s : State) :
    wordsEffect words (withEarlier bo txt s) = withEarlier bo txt (wordsEffect words s) := by
  induction words generalizing s with
  | nil => rfl
  | cons w words ih => rw [wordsEffect_cons, wordEffect_withEarlier, ih, wordsEffect_cons]

theorem wordsEffect_withInput (rest : List HostEvent) (words : List CmdWord) (s : State) :
    wordsEffect words (withInput rest s) = withInput rest (wordsEffect words s) := by
  induction words generalizing s with
  | nil => rfl
  | cons w words ih => rw [wordsEffect_cons, wordEffect_withInput, ih, wordsEffect_cons]

/-- A request just opened on a block that has emitted nothing. -/
def freshRequest (cfg : Config) : State := openRequest { State.reset with cfg := cfg }

/-- `INIT` leaves of the past only what the host already has (R141). -/
theorem openRequest_eq_freshRequest (s : State) :
    openRequest s = withInput s.input (withEarlier s.bo s.txt (freshRequest s.cfg)) :=
  State.ext rfl rfl rfl rfl rfl rfl (List.append_nil _).symm (List.append_nil _).symm rfl rfl

/-- `INIT` and any words do what they do to the fresh request, after the items emitted before. -/
theorem wordsEffect_init_cons (words : List CmdWord) (s : State) :
    wordsEffect (encode .init :: words) s =
      withInput s.input (withEarlier s.bo s.txt (wordsEffect words (freshRequest s.cfg))) := by
  rw [wordsEffect_cons, wordEffect_encode_init, openRequest_eq_freshRequest, wordsEffect_withInput,
    wordsEffect_withEarlier]

/-- Settles O37: both runs are the run of the one fresh request of the configuration, each after its own earlier items. -/
theorem initForgetsThePast : Obligations.InitForgetsThePast := by
  intro s₁ s₂ words hcfg events
  have hlength : events.length = (encode .init :: words).length := by simp [events]
  have hrun₁ := runSteps_wordsEffect (encode .init :: words) s₁
  have hrun₂ := runSteps_wordsEffect (encode .init :: words) s₂
  rw [wordsEffect_init_cons] at hrun₁
  rw [wordsEffect_init_cons, ← hcfg] at hrun₂
  rw [hlength]
  exact ⟨_, _, _, _, hrun₁, hrun₂, rfl, rfl, rfl, rfl, rfl⟩

end Sys2Proof.Machine

/-! SUPPORT. What an open request holds of the bytes it has absorbed, and so what raw-byte requests (R148) and text requests
(R149, R150) leave in the registers and on the streams. -/

namespace Sys2Proof.Machine

/-! ### An open request and its bytes -/

/-- The request that was opened in `s` is open in `t`, with `bytes` absorbed and no pair open (R126, R129). Of `HN` it says
nothing: that is what tells raw bytes from digits. -/
structure HoldsBytes (s : State) (bytes : ByteSeq) (t : State) : Prop where
  ph : t.ph = .run
  ec : t.ec = none
  crc : t.crc = compute bytes
  hnv : t.hnv = false
  ne : t.ne = !bytes.isEmpty
  bo : t.bo = s.bo ++ bytes
  txt : t.txt = s.txt ++ encodeText bytes

theorem holdsBytes_openRequest (s : State) : HoldsBytes s [] (openRequest s) :=
  ⟨rfl, rfl, rfl, rfl, rfl, (List.append_nil s.bo).symm, (List.append_nil s.txt).symm⟩

section
variable {s t : State} {bytes : ByteSeq}

/-- An absorbed byte comes after the others, on both streams and in `CRC`. -/
theorem HoldsBytes.after_absorb (h : HoldsBytes s bytes t) (b : Byte) : HoldsBytes s (bytes ++ [b]) (absorb b t) where
  ph := h.ph
  ec := h.ec
  crc := by rw [absorb_crc, h.crc, compute_append_singleton]
  hnv := h.hnv
  ne := by simp
  bo := by rw [absorb_bo, h.bo, List.append_assoc]
  txt := by rw [absorb_txt, h.txt, byteText, h.ne, encodeText_append_singleton, List.append_assoc]

/-- A byte that came as two digits is absorbed like a raw one. -/
theorem HoldsBytes.after_absorbGroup (h : HoldsBytes s bytes t) (b : Byte) :
    HoldsBytes s (bytes ++ [b]) (absorbGroup b t) :=
  HoldsBytes.after_absorb (t := clearHnv (holdDigit (highNibble b) t))
    { ph := h.ph, ec := h.ec, crc := h.crc, hnv := rfl, ne := h.ne, bo := h.bo, txt := h.txt } b

theorem HoldsBytes.after_absorbGroups (h : HoldsBytes s bytes t) (more : ByteSeq) :
    HoldsBytes s (bytes ++ more) (absorbGroups more t) := by
  induction more generalizing bytes t with
  | nil => rwa [List.append_nil]
  | cons b more ih => simpa [absorbGroups_cons] using ih (h.after_absorbGroup b)

/-- A `BYTE` is absorbed, since no pair is open. -/
theorem HoldsBytes.wordEffect_byte (h : HoldsBytes s bytes t) (b : Byte) :
    wordEffect (encode (.byte b)) t = absorb b t := by
  rw [wordEffect_encode_byte, whenRun_run _ t h.ph, byteBody_absorbs b h.hnv]

/-- `BYTE` commands, one after another; they leave `HN` alone. -/
theorem HoldsBytes.after_bytesCommands (h : HoldsBytes s bytes t) (more : ByteSeq) :
    HoldsBytes s (bytes ++ more) (commandsEffect (bytesCommands more) t) ∧
      (commandsEffect (bytesCommands more) t).hn = t.hn := by
  induction more generalizing bytes t with
  | nil => exact ⟨by rwa [List.append_nil], rfl⟩
  | cons b more ih =>
    have hcons : commandsEffect (bytesCommands (b :: more)) t = commandsEffect (bytesCommands more) (absorb b t) := by
      rw [← h.wordEffect_byte b]; rfl
    rw [hcons, List.append_cons]
    exact ih (h.after_absorb b)

/-- What the registers show of the open request. -/
theorem HoldsBytes.registers_eq (h : HoldsBytes s bytes t) :
    registers t = (.run, none, compute bytes, t.hn, false, !bytes.isEmpty) := by
  rw [registers, h.ph, h.ec, h.crc, h.hnv, h.ne]

/-- `END` after at least one byte: the Checksum goes after the bytes and after their text (R143). -/
theorem HoldsBytes.after_end (h : HoldsBytes s bytes t) (hbytes : bytes ≠ []) :
    registers (whenRun endBody t) = (.done, none, compute bytes, t.hn, false, true) ∧
    (whenRun endBody t).bo = s.bo ++ bytes ++ [lowByte (compute bytes), highByte (compute bytes)] ∧
    (whenRun endBody t).txt = s.txt ++ encodeFrame bytes (compute bytes) := by
  have hne : t.ne = true := by rw [h.ne, List.isEmpty_eq_false_iff.mpr hbytes, Bool.not_false]
  rw [whenRun_run _ t h.ph, endBody_closes h.hnv hne]
  refine ⟨?_, ?_, ?_⟩
  · simp [registers, h.ec, h.crc, h.hnv, hne]
  · simp [h.bo, h.crc]
  · simp [h.txt, h.crc, encodeFrame]

/-- `END` after no byte at all (R142, R143). -/
theorem HoldsBytes.after_end_empty (h : HoldsBytes s [] t) :
    registers (whenRun endBody t) = (.fail, some .emptyInputError, 0xFFFF#16, t.hn, false, false) ∧
    (whenRun endBody t).bo = s.bo ∧ (whenRun endBody t).txt = s.txt := by
  rw [whenRun_run _ t h.ph, endBody_empty h.hnv h.ne]
  refine ⟨?_, ?_, ?_⟩
  · rw [registers, raise_crc, raise_hnv, raise_ne, h.crc, h.hnv, h.ne]; rfl
  · rw [raise_bo, h.bo, List.append_nil]
  · rw [raise_txt, h.txt]; exact List.append_nil _

end

/-! ### Raw bytes -/

theorem runSteps_bytes (s : State) (bytes : ByteSeq) :
    runSteps (bytes.length + 1) { s with input := present (.init :: bytesCommands bytes) } =
      .next (withInput [] (commandsEffect (bytesCommands bytes) (openRequest s))) := by
  have h := runSteps_commandsEffect (.init :: bytesCommands bytes) s
  rw [commandsEffect_init_cons] at h
  simpa [bytesCommands] using h

theorem runSteps_frame (s : State) (bytes : ByteSeq) :
    runSteps (bytes.length + 2) { s with input := present (frameCommands bytes) } =
      .next (withInput [] (whenRun endBody (commandsEffect (bytesCommands bytes) (openRequest s)))) := by
  have h := runSteps_commandsEffect (frameCommands bytes) s
  rw [frameCommands, commandsEffect_concat, commandsEffect_init_cons, wordEffect_encode_endRequest] at h
  simpa [bytesCommands, frameCommands] using h

/-- Settles O38: `INIT` opens the request with no bytes, each `BYTE` adds its own, and `END` sees whether there is one. -/
theorem rawByteRequestComputesTheFrame : Obligations.RawByteRequestComputesTheFrame := by
  intro s bytes
  obtain ⟨h, hhn⟩ := (holdsBytes_openRequest s).after_bytesCommands bytes
  rw [List.nil_append] at h
  rw [openRequest_hn] at hhn
  rw [← hhn]
  refine ⟨⟨_, runSteps_bytes s bytes, h.registers_eq, h.bo, h.txt⟩, ⟨_, runSteps_frame s bytes, h.after_end, ?_⟩⟩
  rintro rfl
  exact h.after_end_empty

/-! ### Texts -/

/-- The characters of a text that decodes, after `INIT`, absorb its bytes as completed groups (R110). -/
theorem feedChars_of_decodeText {s : State} {text : Text} {bytes : ByteSeq}
    (hdec : decodeText s.cfg text = some bytes) :
    feedChars text (openRequest s) = absorbGroups bytes (openRequest s) := by
  have hgroups := (decodeText_eq_some_iff s.cfg text bytes).mp hdec
  rw [feedChars_clean text (openRequest_ph s)]
  exact hgroups.feedChars_eq (openRequest_cfg s) (openRequest_ph s) (openRequest_hnv s)

theorem holdsBytes_feedChars {s : State} {text : Text} {bytes : ByteSeq} (hdec : decodeText s.cfg text = some bytes) :
    HoldsBytes s bytes (feedChars text (openRequest s)) := by
  rw [feedChars_of_decodeText hdec]
  exact (holdsBytes_openRequest s).after_absorbGroups bytes

/-- The high digit of the last byte stays in `HN` (R22). -/
theorem absorbGroups_concat_hn (first : ByteSeq) (last : Byte) (s : State) :
    (absorbGroups (first ++ [last]) s).hn = highNibble last := by
  rw [absorbGroups, List.foldl_concat]
  rfl

/-- Settles O39: the text leaves the open request of its bytes, with the last one's high digit in `HN`. -/
theorem textRequestComputesTheFrame : Obligations.TextRequestComputesTheFrame := by
  intro s text first last hdec bytes
  have h : HoldsBytes s bytes (feedChars text (openRequest s)) := holdsBytes_feedChars hdec
  have hhn : (feedChars text (openRequest s)).hn = highNibble last := by
    rw [feedChars_of_decodeText hdec, absorbGroups_concat_hn]
  refine ⟨⟨_, runSteps_text s text, h.txt⟩, ⟨_, runSteps_line s text, ?_⟩⟩
  rw [← hhn]
  exact h.after_end (by simp [bytes])

/-- Settles O40: where `decode` fails so does the block (R110), and where it yields bytes the block holds just these. -/
theorem textRequestFailsExactlyAsDecodeDoes : Obligations.TextRequestFailsExactlyAsDecodeDoes := by
  intro s text
  obtain ⟨-, -, -, -, t, hrun, hnone⟩ := charCommandsAgreeWithDecode s text
  obtain rfl := Host.Outcome.next.inj (hrun.symm.trans (runSteps_line s text))
  refine ⟨_, hrun, hnone.mpr, fun hdec => ?_, fun hfail => ?_⟩
  · have h := holdsBytes_feedChars hdec
    have hhn : (feedChars text (openRequest s)).hn = 0x0#4 := by rw [feedChars_of_decodeText hdec]; rfl
    rw [← hhn]
    exact h.after_end_empty
  · by_contra hbytes
    push Not at hbytes
    obtain ⟨hsome, hne⟩ := hbytes
    obtain ⟨bytes, hdec⟩ := Option.ne_none_iff_exists'.mp hsome
    obtain ⟨hdone, -⟩ := (holdsBytes_feedChars hdec).after_end (by rintro rfl; exact hne hdec)
    exact Phase.noConfusion (hfail.symm.trans (congrArg Prod.fst hdone))

end Sys2Proof.Machine

/-! SUPPORT. Errors: which commands and words raise which (R160, R163, R184), what error entry shows and leaves (R164), the
discard in `FAIL` and the ways out of it (R165, R166), the wait with nothing presented (R176), and the host's verdict (R172). -/

namespace Sys2Proof.Machine

/-! ### Nothing presented -/

/-- Settles O7: with no event to take a step waits. -/
theorem blockHoldsItsStateWhileNothingIsPresented : Obligations.BlockHoldsItsStateWhileNothingIsPresented :=
  step_waiting

/-! ### In `FAIL` -/

/-- In `FAIL` the gate discards every word but `INIT`'s (R165). -/
theorem wordEffect_of_fail {w : CmdWord} {s : State} (hp : s.ph = .fail) (hw : w ≠ encode .init) :
    wordEffect w s = s := by
  obtain ⟨f, hf⟩ := wordEffect_gated hw
  rw [hf, whenRun_fail f s hp]

/-- Settles O25: the step takes the word, and the gate discards it. -/
theorem failDiscardsEveryWordButInit : Obligations.FailDiscardsEveryWordButInit := by
  intro s w rest hp hin hw
  rw [step_command hin, wordEffect_of_fail (s := withInput rest s) hp hw]
  rfl

/-- Settles O23: `raise` is one update, `STATUS` shows `FAIL` and the code, and in `FAIL` a later word is discarded. -/
theorem raiseWritesOnlyPhaseAndCode : Obligations.RaiseWritesOnlyPhaseAndCode := by
  intro e s
  refine ⟨rfl, (status_err_iff _).mpr rfl, status_ec _, fun w rest hw => ?_⟩
  exact failDiscardsEveryWordButInit { raise e s with input := .command w :: rest } w rest rfl rfl hw

/-- Settles O26: of the events, a word other than `INIT`'s stays in `FAIL`, and both kinds of reset write the reset values. -/
theorem onlyInitOrResetLeavesFail : Obligations.OnlyInitOrResetLeavesFail := by
  intro s t e rest hp hin h hleft
  rw [step_event s e rest hin] at h
  cases e with
  | command w =>
    rw [execEvent, execWord_eq_wordEffect] at h
    obtain rfl := Host.Outcome.next.inj h
    by_cases hw : w = encode .init
    · subst hw
      rw [wordEffect_encode_init]
      exact .inl ⟨rfl, rfl⟩
    · rw [wordEffect_of_fail (s := withInput rest s) hp hw] at hleft
      exact absurd hp hleft
  | reset =>
    obtain rfl := Host.Outcome.next.inj h
    exact .inr ⟨.inl rfl, rfl⟩
  | resetDuring w m n =>
    rw [execEvent, execWord_eq_wordEffect] at h
    obtain rfl := Host.Outcome.next.inj h
    exact .inr ⟨.inr ⟨w, m, n, rfl⟩, cutShort_registers m n _ _⟩

/-! ### The error of a command and of a word -/

/-- From `s` to `t` exactly the error the option names has been taken, or none and `t` is not in `FAIL`. -/
inductive ErrorEntry (s : State) : Option Err → State → Prop where
  | raises (e : Err) : ErrorEntry s (some e) (raise e s)
  | goesOn {t : State} (hp : t.ph ≠ .fail) : ErrorEntry s none t

/-- `PH` and `EC` tell the error that was taken (R164). -/
theorem ErrorEntry.fail_iff {s t : State} {o : Option Err} (h : ErrorEntry s o t) (e : Err) :
    (t.ph = .fail ∧ t.ec = some e) ↔ o = some e := by
  cases h with
  | raises e' => simp
  | goesOn hp => simp [hp]

/-- A state entered in `FAIL` is the old one but for `PH` and `EC` (R160, R164). -/
theorem ErrorEntry.eq_of_fail {s t : State} {o : Option Err} (h : ErrorEntry s o t) (hp : t.ph = .fail) :
    t = { s with ph := .fail, ec := t.ec } := by
  cases h with
  | raises e => rfl
  | goesOn hp' => exact absurd hp hp'

/-- The error of a command other than `INIT`, whose error in `RUN` is `o`, in a phase other than `FAIL` (R146). -/
def gateError (o : Option Err) (s : State) : Option Err := if s.ph = .run then o else some .commandError

theorem gateError_run (o : Option Err) {s : State} (hp : s.ph = .run) : gateError o s = o := if_pos hp

theorem gateError_of_not_run (o : Option Err) {s : State} (hp : s.ph ≠ .run) :
    gateError o s = some .commandError := if_neg hp

theorem gateError_eq_some_iff (o : Option Err) (s : State) (e : Err) :
    gateError o s = some e ↔ (s.ph = .run ∧ o = some e) ∨ (s.ph ≠ .run ∧ e = .commandError) := by
  by_cases hp : s.ph = .run
  · simp [gateError_run o hp, hp]
  · simp [gateError_of_not_run o hp, hp, eq_comm]

/-- What passes the gate takes the error of its body in `RUN`, and `CommandError` in `IDLE` and `DONE`. -/
theorem ErrorEntry.of_whenRun {f : State → State} {o : Option Err} {s : State} (hs : s.ph ≠ .fail)
    (hf : s.ph = .run → ErrorEntry s o (f s)) : ErrorEntry s (gateError o s) (whenRun f s) := by
  by_cases hp : s.ph = .run
  · rw [gateError_run o hp, whenRun_run f s hp]
    exact hf hp
  · rw [gateError_of_not_run o hp, whenRun_of_not_run f s hp, if_neg hs]
    exact .raises .commandError

/-- The error a command raises in a phase other than `FAIL`: the rows of R160, read by command. -/
def commandErrorOf (i : Instr) (s : State) : Option Err :=
  match i with
  | .init => none
  | .byte _ => gateError (if s.hnv then some .commandError else none) s
  | .char c => gateError (if classify s.cfg c = .other then some .parseError else none) s
  | .endRequest =>
    gateError (if s.hnv then some .parseError else if s.ne then none else some .emptyInputError) s

/-- The error a word raises in a phase other than `FAIL`. -/
def wordErrorOf (w : CmdWord) (s : State) : Option Err :=
  match decodeCw w with
  | .legal i => commandErrorOf i s
  | .illegal _ => some .commandError

theorem wordErrorOf_legal {w : CmdWord} {i : Instr} (hw : decodeCw w = .legal i) (s : State) :
    wordErrorOf w s = commandErrorOf i s := by
  simp only [wordErrorOf, hw]

theorem wordErrorOf_illegal {w : CmdWord} {why : IllegalWord} (hw : decodeCw w = .illegal why) (s : State) :
    wordErrorOf w s = some .commandError := by
  simp only [wordErrorOf, hw]

/-- A command takes the error of its row and no other. -/
theorem errorEntry_command (i : Instr) {s : State} (hs : s.ph ≠ .fail) :
    ErrorEntry s (commandErrorOf i s) (wordEffect (encode i) s) := by
  cases i with
  | init =>
    rw [wordEffect_encode_init]
    exact .goesOn (by simp)
  | byte d =>
    rw [wordEffect_encode_byte]
    refine .of_whenRun hs fun _ => ?_
    rcases byteBody_cases d s with ⟨hv, e⟩ | ⟨hv, e⟩ <;> rw [e, hv]
    · exact .raises .commandError
    · exact .goesOn hs
  | char c =>
    rw [wordEffect_encode_char]
    refine .of_whenRun hs fun _ => ?_
    rcases charBody_cases c s with ⟨hc, e⟩ | ⟨hc, e⟩ | ⟨v, hc, -, e⟩ | ⟨v, hc, -, e⟩ <;> rw [e, hc]
    · exact .goesOn hs
    · exact .raises .parseError
    · exact .goesOn hs
    · exact .goesOn hs
  | endRequest =>
    rw [wordEffect_encode_endRequest]
    refine .of_whenRun hs fun _ => ?_
    rcases endBody_cases s with ⟨hv, e⟩ | ⟨hv, hn, e⟩ | ⟨hv, hn, e⟩
    · rw [e, hv]; exact .raises .parseError
    · rw [e, hv, hn]; exact .raises .emptyInputError
    · rw [e, hv, hn]; exact .goesOn (by simp)

/-- A word takes the error of the command it decodes to, or `CommandError` where it decodes to none (R145). -/
theorem errorEntry_word (w : CmdWord) {s : State} (hs : s.ph ≠ .fail) :
    ErrorEntry s (wordErrorOf w s) (wordEffect w s) := by
  cases hw : decodeCw w with
  | legal i =>
    obtain rfl := eq_encode_of_decodeCw hw
    rw [wordErrorOf_legal hw]
    exact errorEntry_command i hs
  | illegal why =>
    rw [wordErrorOf_illegal hw, wordEffect_illegal hw, if_neg hs]
    exact .raises .commandError

/-! ### The causes, read by error (R160) -/

theorem wordErrorOf_eq_parseError_iff (w : CmdWord) (s : State) :
    wordErrorOf w s = some .parseError ↔
      s.ph = .run ∧ ((∃ c, decodeCw w = .legal (.char c) ∧ classify s.cfg c = .other) ∨
        (decodeCw w = .legal .endRequest ∧ s.hnv = true)) := by
  cases hw : decodeCw w with
  | illegal why => simp [wordErrorOf_illegal hw]
  | legal i =>
    rw [wordErrorOf_legal hw]
    cases i with
    | init | byte | char => simp [commandErrorOf, gateError_eq_some_iff]
    | endRequest => cases hv : s.hnv <;> simp [commandErrorOf, gateError_eq_some_iff, hv]

theorem wordErrorOf_eq_emptyInputError_iff (w : CmdWord) (s : State) :
    wordErrorOf w s = some .emptyInputError ↔
      s.ph = .run ∧ decodeCw w = .legal .endRequest ∧ s.hnv = false ∧ s.ne = false := by
  cases hw : decodeCw w with
  | illegal why => simp [wordErrorOf_illegal hw]
  | legal i =>
    rw [wordErrorOf_legal hw]
    cases i with
    | init | byte | char => simp [commandErrorOf, gateError_eq_some_iff]
    | endRequest => cases hv : s.hnv <;> simp [commandErrorOf, gateError_eq_some_iff, hv]

/-- The commands that raise `CommandError` are those a correct host does not issue (R184). -/
theorem commandErrorOf_eq_commandError_iff (i : Instr) (s : State) :
    commandErrorOf i s = some .commandError ↔ legalHere i s = false := by
  cases i with
  | init => simp [commandErrorOf, legalHere]
  | byte | char => by_cases hp : s.ph = .run <;> simp [commandErrorOf, gateError_eq_some_iff, legalHere, hp]
  | endRequest => cases hv : s.hnv <;> simp [commandErrorOf, gateError_eq_some_iff, legalHere, hv]

theorem wordErrorOf_eq_commandError_iff (w : CmdWord) (s : State) :
    wordErrorOf w s = some .commandError ↔
      (∃ why, decodeCw w = .illegal why) ∨ (s.ph ≠ .run ∧ decodeCw w ≠ .legal .init) ∨
        (s.hnv = true ∧ ∃ d, decodeCw w = .legal (.byte d)) := by
  cases hw : decodeCw w with
  | illegal why => simp [wordErrorOf_illegal hw]
  | legal i =>
    rw [wordErrorOf_legal hw, commandErrorOf_eq_commandError_iff]
    cases i with
    | byte d => by_cases hp : s.ph = .run <;> simp [legalHere, hp]
    | init | char | endRequest => simp [legalHere]

/-- Settles O24: the step is the effect of the word, which takes the error of its row, and each error has its causes. -/
theorem errorsAreRaisedByTheirCausesAlone : Obligations.ErrorsAreRaisedByTheirCausesAlone := by
  refine ⟨⟨rfl, rfl, rfl, rfl⟩, fun s t w rest hin hs h => ?_⟩
  rw [step_command hin] at h
  obtain rfl := Host.Outcome.next.inj h
  have hentry := errorEntry_word w (s := withInput rest s) hs
  exact ⟨(hentry.fail_iff _).trans (wordErrorOf_eq_parseError_iff w _),
    (hentry.fail_iff _).trans (wordErrorOf_eq_emptyInputError_iff w _),
    (hentry.fail_iff _).trans (wordErrorOf_eq_commandError_iff w _), hentry.eq_of_fail⟩

theorem exec_eq_wordEffect (i : Instr) (s : State) : exec i s = .next (wordEffect (encode i) s) := by
  rw [← execWord_eq_wordEffect, execWord_legal _ i s (decodeCw_encode i)]

/-- Settles O27: a command answers its effect, which takes `CommandError` exactly where the command is not legal. -/
theorem commandErrorExactlyForMisplacedCommands : Obligations.CommandErrorExactlyForMisplacedCommands :=
  fun s i hs => ⟨_, exec_eq_wordEffect i s,
    ((errorEntry_command i hs).fail_iff _).trans (commandErrorOf_eq_commandError_iff i s)⟩

/-! ### The host's verdict -/

/-- The verdict is the phase's, as the two status lines show it (R169, R172). -/
theorem hostVerdict_status (s : State) :
    hostVerdict (status s) = if s.ph = .done then .keep else if s.ph = .fail then .discardAndReport else .pending := by
  simp only [hostVerdict, status_done_iff, status_err_iff]

/-- Settles O57: the verdict in each of the four phases. -/
theorem hostVerdictFollowsThePhase : Obligations.HostVerdictFollowsThePhase := by
  intro s
  rw [hostVerdict_status]
  cases hp : s.ph <;> simp [RequestEnded, hp]

end Sys2Proof.Machine

/-! SUPPORT. A reset that lands inside a command (R181, I9). -/

namespace Sys2Proof.Machine

theorem step_resetDuring {s : State} {w : CmdWord} {m n : Nat} {rest : List HostEvent}
    (hin : s.input = .resetDuring w m n :: rest) :
    step s = .next (cutShort m n (withInput rest s) (wordEffect w (withInput rest s))) := by
  rw [step_event s _ rest hin, execEvent, execWord_eq_wordEffect]
  rfl

/-- Where the completed command has appended the items `bo`, the host keeps the first `m` of them. -/
theorem cutShort_bo_of_append (m n : Nat) {s t : State} {bo : List Byte} (h : t.bo = s.bo ++ bo) :
    (cutShort m n s t).bo = s.bo ++ bo.take m := by
  rw [cutShort_bo, h, List.drop_left]

/-- Where the completed command has appended the items `txt`, the host keeps the first `n` of them. -/
theorem cutShort_txt_of_append (m n : Nat) {s t : State} {txt : List Byte} (h : t.txt = s.txt ++ txt) :
    (cutShort m n s t).txt = s.txt ++ txt.take n := by
  rw [cutShort_txt, h, List.drop_left]

/-- Settles O9: the completed word is a move that only appends items, and the reset cuts that same move short. -/
theorem resetInsideACommandDeliversAFirstPart : Obligations.ResetInsideACommandDeliversAFirstPart := by
  intro s w m n rest hin
  obtain ⟨bo, txt, hbo, htxt⟩ := (wordMove_wordEffect w (withInput rest s)).emits
  have hcommand : step { s with input := .command w :: rest } = .next (wordEffect w (withInput rest s)) :=
    step_command rfl
  exact ⟨_, _, bo, txt, hcommand, hbo, htxt, step_resetDuring hin, cutShort_registers m n _ _,
    cutShort_bo_of_append m n hbo, cutShort_txt_of_append m n htxt, cutShort_input m n _ _, cutShort_cfg m n _ _⟩

end Sys2Proof.Machine
